-- ==== Sys2Proof/Word.lean ====
section
/-! DEFINITION. The value types of the block: bytes, 32-bit register values, 27-bit port offsets (R60), RGBA
pixels (R13, R45). -/

namespace Sys2Proof

/-- A byte: 8 bits, bit 7 the most significant (R7, R8). -/
abbrev Byte := BitVec 8

/-- The value of a 32-bit register, bit 0 the least significant (R8). -/
abbrev Word := BitVec 32

/-- A byte offset in the 27-bit address space of the slave port (R60). -/
abbrev Offset := BitVec 27

/-- One RGBA8888 pixel (R67 e, R171): the four bytes in ascending address order. -/
structure Rgba where
  r : Byte
  g : Byte
  b : Byte
  a : Byte
  deriving DecidableEq, Repr

/-- The eight byte-wide registers of a DES region, byte 0 first (R33 to R35). -/
abbrev Bytes8 := Vector Byte 8

end Sys2Proof
end

