-- ==== Sys2Proof/Config.lean ====
section
/-! DEFINITION. The implementation parameters of R5 and the free value for the buffer bytes that a reset leaves
unspecified (R52, R272). -/

namespace Sys2Proof

/-- The parameters of R5. The spec leaves them open (D3, D25); a state carries them as plain data (`State.params`),
so that every statement about all states is a statement about all parameters. Their constraints are `Params.wf`. -/
structure Params where
  /-- IN_SIZE: capacity in bytes of IN. -/
  inSize : Nat
  /-- OUT_SIZE: capacity in bytes of OUT. -/
  outSize : Nat
  /-- MX_SIZE: capacity in bytes of each of MX_A, MX_B, MX_M; MX_R holds twice as many. -/
  mxSize : Nat
  /-- HX_INIT_BG: the Hextile running background before any tile specified one (R212). -/
  hxInitBg : Rgba
  /-- HX_INIT_FG: the same for the running foreground (R212). -/
  hxInitFg : Rgba
  deriving DecidableEq, Repr

/-- The reference values of R5.
DESIGN CHOICE (log 1), unsafe for statements about `State.reset`: the spec leaves the parameters open and names
these as the values of its own vectors. -/
def Config.reference : Params where
  inSize := 65536
  outSize := 262144
  mxSize := 512
  hxInitBg := ⟨0, 0, 0, 255⟩
  hxInitFg := ⟨0, 0, 0, 255⟩

/-- FREE VALUE (log 3), safe: the byte that a buffer location at a port offset (second argument) holds after a reset
while nothing has written it. R272: "unspecified but stable". The first argument tells one reset's contents from
another's (`Fill.unspecified`). It has no body: nothing can be proved of its value. -/
opaque Config.unspecifiedByte : Nat → Nat → Byte

end Sys2Proof
end

