-- ==== Sys2Proof/Syntax.lean ====
section
/-! DEFINITION. The eleven commands (R82) and the fields of a command word (R80). -/

namespace Sys2Proof

/-- The commands of the opcode map R82, one constructor per row of spec/opcode_table.json. A command word carries no
operand (R81); the one modifier is KR of DES.ENC (R83). -/
inductive Instr where
  /-- NOP (R230). -/
  | nop
  /-- CLEAR (R231). -/
  | clear
  /-- DES.ENC (R100); `kr` is the key-reversal modifier, so that `desEnc true` is DES.ENC.KR (R92). -/
  | desEnc (kr : Bool)
  /-- MX.MODPOW (R143). -/
  | mxModpow
  /-- MX.MOD (R144). -/
  | mxMod
  /-- MX.MUL (R145). -/
  | mxMul
  /-- PX.CONV (R169). -/
  | pxConv
  /-- DEC.RAW (R184). -/
  | decRaw
  /-- DEC.COPYRECT (R185). -/
  | decCopyrect
  /-- DEC.RRE (R187). -/
  | decRre
  /-- DEC.HEXTILE (R219). -/
  | decHextile
  deriving DecidableEq, Repr

/-- The fields of format C (R80): every 32-bit command word is one such triple. -/
structure CommandFields where
  /-- OP, bits 7:0. -/
  op : Byte
  /-- KR, bit 8. -/
  kr : Bool
  /-- ZERO, bits 31:9. -/
  zero : BitVec 23
  deriving DecidableEq, Repr

end Sys2Proof
end

