-- ==== Sys2Proof/WellFormed.lean ====
section
/-! DEFINITION. The checks on terms: legality of a command word's fields (R84), of an instruction term (R81), and of
the parameters (R5). -/

namespace Sys2Proof

/-- R84, first clause: bits 31:9 are all 0. -/
def CommandFields.zeroOk (c : CommandFields) : Bool := c.zero == 0

/-- R84, second clause: OP is one of the eleven values of R82. -/
def CommandFields.opOk (c : CommandFields) : Bool :=
  [0x00#8, 0x01#8, 0x10#8, 0x20#8, 0x21#8, 0x22#8, 0x30#8, 0x40#8, 0x41#8, 0x42#8, 0x43#8].contains c.op

/-- R84, third clause: KR = 1 only with OP = 0x10. -/
def CommandFields.krOk (c : CommandFields) : Bool := !c.kr || c.op == 0x10#8

/-- A command word is legal when none of the three clauses of R84 rejects it. -/
def CommandFields.wf (c : CommandFields) : Bool := c.zeroOk && c.opOk && c.krOk

/-- Every instruction term is well formed: a command has no operand that could be out of range (R81), and the one
field, KR, stands only in the constructor that may have it (R83). -/
def Instr.wf (i : Instr) : Bool :=
  match i with
  | .nop => true
  | .clear => true
  | .desEnc _ => true
  | .mxModpow => true
  | .mxMod => true
  | .mxMul => true
  | .pxConv => true
  | .decRaw => true
  | .decCopyrect => true
  | .decRre => true
  | .decHextile => true

/-- R5: 1 <= IN_SIZE <= 2^24. -/
def Params.inSizeOk (p : Params) : Bool := decide (1 ≤ p.inSize ∧ p.inSize ≤ 2 ^ 24)

/-- R5: 4 <= OUT_SIZE <= 2^26, a multiple of 4. -/
def Params.outSizeOk (p : Params) : Bool :=
  decide (4 ≤ p.outSize ∧ p.outSize ≤ 2 ^ 26 ∧ p.outSize % 4 = 0)

/-- R5: 1 <= MX_SIZE <= 2^16. -/
def Params.mxSizeOk (p : Params) : Bool := decide (1 ≤ p.mxSize ∧ p.mxSize ≤ 2 ^ 16)

/-- The constraints of R5 on the parameters (the two colours may be any). -/
def Params.wf (p : Params) : Bool := p.inSizeOk && p.outSizeOk && p.mxSizeOk

end Sys2Proof
end

