-- ==== Sys2Proof/Decode.lean ====
section
/-! DEFINITION. Decoding a command word in the order of R94, total on all 2^32 words, and the encoder from the
command words of R82. -/

namespace Sys2Proof

/-- Cuts a command word into the fields of format C (R80). -/
def CommandFields.ofWord (w : Word) : CommandFields where
  op := w.extractLsb' 0 8
  kr := w.getLsbD 8
  zero := w.extractLsb' 9 23

/-- The command word with the given fields (R80). -/
def CommandFields.toWord (c : CommandFields) : Word :=
  (c.zero.setWidth 32 <<< 9) ||| ((BitVec.ofBool c.kr).setWidth 32 <<< 8) ||| c.op.setWidth 32

/-- Why a word is no command: the three clauses of R84, in the order of R94. -/
inductive DecodeError where
  /-- R94 (a): a bit of 31:9 is set. -/
  | reservedBits
  /-- R94 (b): OP is not in the opcode map. -/
  | unknownOp
  /-- R94 (c): KR = 1 with OP other than 0x10. -/
  | reservedKr
  deriving DecidableEq, Repr

/-- The opcode map R82: the command that OP selects, given KR (which only DES.ENC keeps, R83). -/
def opcodeMap (op : Byte) (kr : Bool) : Option Instr :=
  match op with
  | 0x00#8 => some .nop
  | 0x01#8 => some .clear
  | 0x10#8 => some (.desEnc kr)
  | 0x20#8 => some .mxModpow
  | 0x21#8 => some .mxMod
  | 0x22#8 => some .mxMul
  | 0x30#8 => some .pxConv
  | 0x40#8 => some .decRaw
  | 0x41#8 => some .decCopyrect
  | 0x42#8 => some .decRre
  | 0x43#8 => some .decHextile
  | _ => none

/-- R94: judges the fields of a word in the order (a), (b), (c), (d). -/
def decodeFields (c : CommandFields) : Except DecodeError Instr :=
  if c.zero ≠ 0 then .error .reservedBits
  else
    match opcodeMap c.op c.kr with
    | none => .error .unknownOp
    | some i => if c.kr = true ∧ c.op ≠ 0x10#8 then .error .reservedKr else .ok i

/-- R94: the command of a 32-bit word, or the reason why it is illegal. -/
def decode (w : Word) : Except DecodeError Instr := decodeFields (CommandFields.ofWord w)

/-- The command word of R82 (and of R83 for KR = 1). -/
def encode (i : Instr) : Word :=
  match i with
  | .nop => 0x00000000#32
  | .clear => 0x00000001#32
  | .desEnc false => 0x00000010#32
  | .desEnc true => 0x00000110#32
  | .mxModpow => 0x00000020#32
  | .mxMod => 0x00000021#32
  | .mxMul => 0x00000022#32
  | .pxConv => 0x00000030#32
  | .decRaw => 0x00000040#32
  | .decCopyrect => 0x00000041#32
  | .decRre => 0x00000042#32
  | .decHextile => 0x00000043#32

/-- The host's reading of an instruction given by the bits `w` of a table row of `nbits` bits: a command word is one
32-bit value (R80) and the port carries values, not bytes (R66, log 11), so the bits are the word itself; bits above
`nbits` are 0. -/
def decodeTableWord (nbits w : Nat) : Option Instr :=
  match decode (BitVec.ofNat 32 (w % 2 ^ nbits)) with
  | .ok i => some i
  | .error _ => none

end Sys2Proof
end

