-- ==== Sys2Proof/Machine/State.lean ====
section
/-! DEFINITION. The state of the block (R20) as plain data, with the events that move the system (R12, R71), the
reasons a step can stop, and the state after reset (R52). -/

namespace Sys2Proof.Machine

/-- The six byte buffers (R44 to R47). -/
inductive Buf where
  /-- IN (R44), RW. -/
  | inp
  /-- OUT (R45), RO to the host. -/
  | out
  /-- MX_A (R46), RW. -/
  | mxA
  /-- MX_B (R46), RW. -/
  | mxB
  /-- MX_M (R46), RW. -/
  | mxM
  /-- MX_R (R47), RO to the host. -/
  | mxR
  deriving DecidableEq, Repr

/-- The 32-bit word registers of the address map (R61). -/
inductive WordReg where
  | id | cmd | status | errcode | errinfo | ctrl | capIn | capOut | capMx
  | inLen | outLen | rectX | rectY | rectW | rectH | srcX | srcY
  | pfCtrl | pfRmax | pfGmax | pfBmax | pfShift
  | mxAlen | mxBlen | mxMlen | mxMinlen | mxRlen
  deriving DecidableEq, Repr

/-- The byte-wide locations of the address map (R61): a byte of a DES region, or byte `i` of a buffer. -/
inductive ByteLoc where
  | desKey (i : Fin 8)
  | desIn (i : Fin 8)
  | desOut (i : Fin 8)
  | buf (b : Buf) (i : Nat)
  deriving DecidableEq, Repr

/-- The host's transactions (R62). The port has the widths 1 and 4 only (R63) and carries values of exactly that
width, so nothing else can be written down. -/
inductive PortOp where
  /-- PortRead(addr, 1). -/
  | read8 (addr : Offset)
  /-- PortRead(addr, 4). -/
  | read32 (addr : Offset)
  /-- PortWrite(addr, 1, v). -/
  | write8 (addr : Offset) (v : Byte)
  /-- PortWrite(addr, 4, v). -/
  | write32 (addr : Offset) (v : Word)
  deriving DecidableEq, Repr

/-- What a port transaction returns (R62). -/
inductive PortResp where
  /-- OK(v) of a 1-byte read. -/
  | byte (v : Byte)
  /-- OK(v) of a 4-byte read. -/
  | word (v : Word)
  /-- OK of a write, dropped or not (R69, R86). -/
  | written
  /-- ERROR: a bus error (R64). -/
  | error
  deriving DecidableEq, Repr

/-- What a buffer byte that nothing has written reads as. -/
inductive Fill where
  /-- After CLEAR (R231): 0x00. -/
  | zero
  /-- After a reset (R52, R272): the free value `Config.unspecifiedByte k` at its offset (log 3). -/
  | unspecified (k : Nat)
  deriving DecidableEq, Repr

/-- One step of the system (R12, R71, R270). -/
inductive Event where
  /-- The engine's step, if it is enabled (R87). -/
  | engine
  /-- A port transaction of the host (R62). -/
  | port (op : PortOp)
  /-- The reset event (R270), with the post-reset contents of the six buffers as its argument (R272): `fill`, changed
  at the listed port offsets (log 4). -/
  | reset (fill : Fill) (cells : List Host.Cell)
  deriving DecidableEq, Repr

/-- The contents of the six buffers: `cells` lists (port offset, byte) in strictly rising order, and an unlisted byte
reads as `fill` says (`Memory.unlisted`). The canonical form is `Memory.wf` (log 3). -/
structure Memory where
  fill : Fill
  cells : List Host.Cell
  deriving DecidableEq, Repr

/-- The error codes of R241 that a command can complete with. -/
inductive ErrCode where
  /-- ERR_CMD (R242). -/
  | cmd
  /-- ERR_PROTOCOL (R243). -/
  | protocol
  /-- ERR_PIXFMT (R244). -/
  | pixfmt
  /-- ERR_CAPACITY (R245). -/
  | capacity
  /-- ERR_DIVZERO (R246). -/
  | divzero
  deriving DecidableEq, Repr

/-- The `ERR(code, info)` of a command (R87, R89). -/
structure CmdError where
  code : ErrCode
  info : Word
  deriving DecidableEq, Repr

/-- The one fault of the spec. -/
inductive Fault where
  /-- A bus error (R64). Raised by the port functions `portRead8`, `portRead32`, `portWrite8`, `portWrite32` for an
  access the address map does not have; it changes no state, and the step delivers it to the host as the response
  ERROR and goes on (R62, R254; log 8), so no step ends in it. Safe: it is the spec's own behaviour. -/
  | busError
  deriving DecidableEq, Repr

/-- Refusals: instructions without a meaning. -/
inductive Refusal where
  /-- For an instruction with no meaning yet; every command has its meaning, so nothing raises it. Safe. -/
  | notModelled (mnemonic : String)
  deriving DecidableEq, Repr

/-- The whole state (R20). Every word register is 32 bits wide (R21). ID, CMD and the CAP registers hold no value of
their own (R22, R23, R28) and are answered by `WordReg.read`. -/
structure State where
  /-- STATUS (R24). -/
  status : Word
  /-- ERRCODE (R25). -/
  errcode : Word
  /-- ERRINFO (R26). -/
  errinfo : Word
  /-- CTRL (R27). -/
  ctrl : Word
  /-- IN_LEN (R29). -/
  inLen : Word
  /-- OUT_LEN (R30). -/
  outLen : Word
  /-- RECT_X (R31). -/
  rectX : Word
  /-- RECT_Y (R31). -/
  rectY : Word
  /-- RECT_W (R31). -/
  rectW : Word
  /-- RECT_H (R31). -/
  rectH : Word
  /-- SRC_X (R32). -/
  srcX : Word
  /-- SRC_Y (R32). -/
  srcY : Word
  /-- DES_KEY (R33). -/
  desKey : Bytes8
  /-- DES_IN (R34). -/
  desIn : Bytes8
  /-- DES_OUT (R35). -/
  desOut : Bytes8
  /-- PF_CTRL (R36). -/
  pfCtrl : Word
  /-- PF_RMAX (R37). -/
  pfRmax : Word
  /-- PF_GMAX (R38). -/
  pfGmax : Word
  /-- PF_BMAX (R39). -/
  pfBmax : Word
  /-- PF_SHIFT (R40). -/
  pfShift : Word
  /-- MX_ALEN (R41). -/
  mxAlen : Word
  /-- MX_BLEN (R41). -/
  mxBlen : Word
  /-- MX_MLEN (R41). -/
  mxMlen : Word
  /-- MX_MINLEN (R42). -/
  mxMinlen : Word
  /-- MX_RLEN (R43). -/
  mxRlen : Word
  /-- The six buffers (R44 to R47), keyed by port offset. -/
  mem : Memory
  /-- PEND (R48). -/
  pend : Word
  /-- The MODEL's field (log 2): the parameters of R5. No step changes them. -/
  params : Params
  /-- The MODEL's field (log 7): the response of the last port transaction (R62). -/
  resp : Option PortResp
  /-- The MODEL's field (log 5): the events still to come, the next one first (R71). -/
  sched : List Event
  deriving DecidableEq, Repr

/-- The state after reset (R52, R271). DESIGN CHOICES: the parameters are the reference values (log 1), every buffer
byte is the free value (log 3), no event is waiting (log 5) and no response stands (log 7). -/
def State.reset : State where
  status := 0
  errcode := 0
  errinfo := 0
  ctrl := 0
  inLen := 0
  outLen := 0
  rectX := 0
  rectY := 0
  rectW := 0
  rectH := 0
  srcX := 0
  srcY := 0
  desKey := #v[0, 0, 0, 0, 0, 0, 0, 0]
  desIn := #v[0, 0, 0, 0, 0, 0, 0, 0]
  desOut := #v[0, 0, 0, 0, 0, 0, 0, 0]
  pfCtrl := 0
  pfRmax := 0
  pfGmax := 0
  pfBmax := 0
  pfShift := 0
  mxAlen := 0
  mxBlen := 0
  mxMlen := 0
  mxMinlen := 0
  mxRlen := 0
  mem := ⟨.unspecified 0, []⟩
  pend := 0
  params := Config.reference
  resp := none
  sched := []

end Sys2Proof.Machine
end

