-- ==== Sys2Proof/Machine/Flags.lean ====
section
/-! DEFINITION. The flags: the bits of STATUS (R24) and CTRL (R27), the error codes (R241), and the output `irq`
(R54). -/

namespace Sys2Proof.Machine

/-- STATUS.BUSY, bit 0 (R24). -/
def State.busy (s : State) : Bool := s.status.getLsbD 0

/-- STATUS.DONE, bit 1 (R24). -/
def State.done (s : State) : Bool := s.status.getLsbD 1

/-- STATUS.ERR, bit 2 (R24). -/
def State.err (s : State) : Bool := s.status.getLsbD 2

/-- STATUS.OVR, bit 3 (R24). -/
def State.ovr (s : State) : Bool := s.status.getLsbD 3

/-- CTRL.IE, bit 0 (R27). -/
def State.ie (s : State) : Bool := s.ctrl.getLsbD 0

/-- The value of STATUS with the given flags and every reserved bit 0 (R24). -/
def statusWord (busy done err ovr : Bool) : Word :=
  BitVec.ofNat 32 (busy.toNat + 2 * done.toNat + 4 * err.toNat + 8 * ovr.toNat)

/-- STATUS after a host write of `v` with BUSY = 0 (R24): bits 1 and 3 of `v` clear DONE and OVR, every other written
bit is ignored. -/
def State.statusWrite1Clear (s : State) (v : Word) : Word :=
  statusWord s.busy (s.done && !v.getLsbD 1) s.err (s.ovr && !v.getLsbD 3)

/-- The output `irq = CTRL.IE AND STATUS.DONE` (R54, R250). -/
def State.irq (s : State) : Bool := s.ie && s.done

/-- The numeric error codes of R241. -/
def ErrCode.toWord (c : ErrCode) : Word :=
  match c with
  | .cmd => 1
  | .protocol => 2
  | .pixfmt => 3
  | .capacity => 4
  | .divzero => 5

end Sys2Proof.Machine
end

