-- ==== Sys2Proof/Machine/Operands.lean ====
section
/-! DEFINITION. The pseudocode primitives of R10 and the operand registers as the numbers the rules compute with:
big-endian numbers, slices of a byte sequence, bit reversal, rectangle size and pixel format. -/

namespace Sys2Proof.Machine

/-- `nat(bytes)` (R10, R131): the number whose big-endian base-256 digits are the bytes; 0 for the empty sequence. -/
def natOf (bs : List Byte) : Nat := bs.foldl (fun acc b => 256 * acc + b.toNat) 0

/-- `be(v, n)` (R10): the n-byte big-endian representation of `v`, for v < 256^n. -/
def beBytes (v n : Nat) : List Byte :=
  (List.range n).map fun i => BitVec.ofNat 8 (v / 256 ^ (n - 1 - i))

/-- The number of bits of `v`, 0 for `v = 0` (R139). -/
def bitlen (v : Nat) : Nat := if v = 0 then 0 else Nat.log2 v + 1

/-- `natlen(v)` (R10, R134): the least n with v < 256^n, so that `natlen 0 = 0`. -/
def natlen (v : Nat) : Nat := (bitlen v + 7) / 8

/-- `rev8(b)` (R10): bit i of the result is bit 7 - i of `b`. -/
def rev8 (b : Byte) : Byte := b.reverse

/-- The bytes at `[a, a + n)` of a byte sequence (R10). -/
def slice (bs : List Byte) (a n : Nat) : List Byte := (bs.drop a).take n

/-- `be16` of the two bytes at offset `a` (R10). -/
def be16At (bs : List Byte) (a : Nat) : Nat := natOf (slice bs a 2)

/-- `be32` of the four bytes at offset `a` (R10). -/
def be32At (bs : List Byte) (a : Nat) : Nat := natOf (slice bs a 4)

/-- The byte at offset `a`, as a value of 8 bits. -/
def byteAt (bs : List Byte) (a : Nat) : Byte := bs.getD a 0

/-- `W = RECT_W[15:0]` (R180). -/
def State.rectWidth (s : State) : Nat := (s.rectW.extractLsb' 0 16).toNat

/-- `H = RECT_H[15:0]` (R180). -/
def State.rectHeight (s : State) : Nat := (s.rectH.extractLsb' 0 16).toNat

/-- The pixel format in force (R160). -/
structure PixelFormat where
  /-- Bytes per pixel: 1, 2 or 4. -/
  bpp : Nat
  bigEndian : Bool
  trueColour : Bool
  redMax : Nat
  greenMax : Nat
  blueMax : Nat
  redShift : Nat
  greenShift : Nat
  blueShift : Nat
  deriving DecidableEq, Repr

/-- Bytes per pixel from PF_CTRL.BPPSEL (R36, R160); none for the reserved value 3. -/
def bppOf (pfCtrl : Word) : Option Nat :=
  match pfCtrl.extractLsb' 0 2 with
  | 0#2 => some 1
  | 1#2 => some 2
  | 2#2 => some 4
  | _ => none

/-- The fields of the five PF registers (R36 to R40, R160), given the bytes per pixel. -/
def State.formatWith (s : State) (bpp : Nat) : PixelFormat where
  bpp := bpp
  bigEndian := s.pfCtrl.getLsbD 8
  trueColour := s.pfCtrl.getLsbD 9
  redMax := (s.pfRmax.extractLsb' 0 16).toNat
  greenMax := (s.pfGmax.extractLsb' 0 16).toNat
  blueMax := (s.pfBmax.extractLsb' 0 16).toNat
  redShift := (s.pfShift.extractLsb' 0 8).toNat
  greenShift := (s.pfShift.extractLsb' 8 8).toNat
  blueShift := (s.pfShift.extractLsb' 16 8).toNat

/-- R161 (b), (c), (d) do not apply: under true colour every max is nonzero and every shift below 32; without true
colour a pixel is one byte. -/
def PixelFormat.legal (f : PixelFormat) : Bool :=
  if f.trueColour then
    f.redMax != 0 && f.greenMax != 0 && f.blueMax != 0 &&
      decide (f.redShift < 32) && decide (f.greenShift < 32) && decide (f.blueShift < 32)
  else f.bpp == 1

/-- PFCHECK (R161): the legal format in force, or ERR_PIXFMT. -/
def State.pfCheck (s : State) : Except CmdError PixelFormat :=
  match bppOf s.pfCtrl with
  | none => .error ⟨.pixfmt, 0⟩
  | some bpp => if (s.formatWith bpp).legal then .ok (s.formatWith bpp) else .error ⟨.pixfmt, 0⟩

end Sys2Proof.Machine
end

