-- ==== Sys2Proof/Machine/Ops.lean ====
section
/-! DEFINITION. The shared operations: the address map (R61), the buffers (R44 to R47), the word registers (R21 to
R43), the acceptance and the two completions of a command (R85, R88, R89), the result commits, and the reset event
(R270 to R273). Taking an exception is `State.completeErr` (R252); what ends the error state is
`State.acceptCommand` (R253). -/

namespace Sys2Proof.Machine

/-! ## Buffers -/

/-- The port offset of byte 0 of a buffer's window (R61). -/
def Buf.base (b : Buf) : Nat :=
  match b with
  | .inp => 0x1000000
  | .out => 0x4000000
  | .mxA => 0x010000
  | .mxB => 0x020000
  | .mxM => 0x030000
  | .mxR => 0x040000

/-- The capacity of a buffer in bytes (R5, R44 to R47). -/
def Buf.capacity (b : Buf) (p : Params) : Nat :=
  match b with
  | .inp => p.inSize
  | .out => p.outSize
  | .mxA => p.mxSize
  | .mxB => p.mxSize
  | .mxM => p.mxSize
  | .mxR => 2 * p.mxSize

/-- A host write to the buffer is ignored (R45, R47). -/
def Buf.readOnly (b : Buf) : Bool :=
  match b with
  | .out => true
  | .mxR => true
  | .inp => false
  | .mxA => false
  | .mxB => false
  | .mxM => false

/-- The six buffers in the order of the address map. -/
def Buf.all : List Buf := [.mxA, .mxB, .mxM, .mxR, .inp, .out]

/-- Offset `a` lies in the buffer's window, below its capacity (R61). -/
def Buf.holds (b : Buf) (p : Params) (a : Nat) : Bool := decide (b.base ≤ a ∧ a < b.base + b.capacity p)

/-- The buffer whose window holds offset `a`, if any (R61). -/
def bufAt (p : Params) (a : Nat) : Option Buf := Buf.all.find? fun b => b.holds p a

/-- What an unlisted byte at offset `a` reads as: 0x00 after CLEAR (R231), the free value after a reset (R272). -/
def Memory.unlisted (m : Memory) (a : Nat) : Byte :=
  match m.fill with
  | .zero => 0
  | .unspecified k => Config.unspecifiedByte k a

/-- The byte a list of cells holds at `a`, if it lists one. -/
def lookupCell (cs : List Host.Cell) (a : Nat) : Option Byte :=
  match cs with
  | [] => none
  | c :: cs => if c.1 = a then some c.2 else lookupCell cs a

/-- The byte at port offset `a` of the buffers. -/
def Memory.read (m : Memory) (a : Nat) : Byte := (lookupCell m.cells a).getD (m.unlisted a)

/-- The `n` bytes from port offset `a` on, in ascending order. -/
def Memory.readBytes (m : Memory) (a n : Nat) : List Byte := (List.range n).map fun i => m.read (a + i)

/-- A byte that the canonical form lists: after CLEAR an unlisted byte is 0x00 and no 0x00 is listed; an unspecified
byte equals no byte that was written (log 3). -/
def Fill.lists (f : Fill) (b : Byte) : Bool :=
  match f with
  | .zero => b != 0
  | .unspecified _ => true

/-- The cells for the bytes `bs` from offset `a` on, without those the canonical form leaves out. -/
def cellsFrom (f : Fill) (a : Nat) (bs : List Byte) : List Host.Cell :=
  match bs with
  | [] => []
  | b :: bs => if f.lists b then (a, b) :: cellsFrom f (a + 1) bs else cellsFrom f (a + 1) bs

/-- Writes the bytes `bs` at offsets `[a, a + bs.length)`; every other byte stays. -/
def Memory.writeBytes (m : Memory) (a : Nat) (bs : List Byte) : Memory where
  fill := m.fill
  cells := (m.cells.filter fun c => decide (c.1 < a)) ++ cellsFrom m.fill a bs ++
    (m.cells.filter fun c => decide (a + bs.length ≤ c.1))

/-- Writes one byte. -/
def Memory.write (m : Memory) (a : Nat) (b : Byte) : Memory := m.writeBytes a [b]

/-- The canonical form: offsets strictly rising, and no entry that equals what an unlisted byte reads as. -/
abbrev Memory.wf (m : Memory) : Prop :=
  m.cells.Pairwise (fun c d => c.1 < d.1) ∧ ∀ c ∈ m.cells, m.fill.lists c.2 = true

/-- Byte `i` of buffer `b`. -/
def State.bufByte (s : State) (b : Buf) (i : Nat) : Byte := s.mem.read (b.base + i)

/-- Bytes `[0, n)` of buffer `b`. -/
def State.bufBytes (s : State) (b : Buf) (n : Nat) : List Byte := s.mem.readBytes b.base n

/-! ## The address map -/

/-- The word registers in the order of the address map. -/
def WordReg.all : List WordReg :=
  [.id, .cmd, .status, .errcode, .errinfo, .ctrl, .capIn, .capOut, .capMx,
    .inLen, .outLen, .rectX, .rectY, .rectW, .rectH, .srcX, .srcY,
    .pfCtrl, .pfRmax, .pfGmax, .pfBmax, .pfShift,
    .mxAlen, .mxBlen, .mxMlen, .mxMinlen, .mxRlen]

/-- The offset of a word register (R61). -/
def WordReg.offset (r : WordReg) : Nat :=
  match r with
  | .id => 0x000
  | .cmd => 0x004
  | .status => 0x008
  | .errcode => 0x00C
  | .errinfo => 0x010
  | .ctrl => 0x014
  | .capIn => 0x018
  | .capOut => 0x01C
  | .capMx => 0x020
  | .inLen => 0x040
  | .outLen => 0x044
  | .rectX => 0x048
  | .rectY => 0x04C
  | .rectW => 0x050
  | .rectH => 0x054
  | .srcX => 0x058
  | .srcY => 0x05C
  | .pfCtrl => 0x060
  | .pfRmax => 0x064
  | .pfGmax => 0x068
  | .pfBmax => 0x06C
  | .pfShift => 0x070
  | .mxAlen => 0x080
  | .mxBlen => 0x084
  | .mxMlen => 0x088
  | .mxMinlen => 0x08C
  | .mxRlen => 0x090

/-- The word register at offset `a`, if any (R61, R63). -/
def wordAt (a : Nat) : Option WordReg := WordReg.all.find? fun r => r.offset == a

/-- The offset of DES_KEY[0] (R33). -/
def desKeyBase : Nat := 0x100

/-- The offset of DES_IN[0] (R34). -/
def desInBase : Nat := 0x108

/-- The offset of DES_OUT[0] (R35). -/
def desOutBase : Nat := 0x110

/-- The byte-wide location at offset `a`, if any (R61, R63). -/
def byteLocAt (p : Params) (a : Nat) : Option ByteLoc :=
  if desKeyBase ≤ a ∧ a < desKeyBase + 8 then some (.desKey (Fin.ofNat 8 (a - desKeyBase)))
  else if desInBase ≤ a ∧ a < desInBase + 8 then some (.desIn (Fin.ofNat 8 (a - desInBase)))
  else if desOutBase ≤ a ∧ a < desOutBase + 8 then some (.desOut (Fin.ofNat 8 (a - desOutBase)))
  else
    match bufAt p a with
    | some b => some (.buf b (a - b.base))
    | none => none

/-! ## Word registers -/

/-- What a host read of a word register returns (R22 to R32, R36 to R43): ID and the CAP registers are constants, CMD
reads 0. -/
def WordReg.read (r : WordReg) (s : State) : Word :=
  match r with
  | .id => 0x53423037
  | .cmd => 0
  | .status => s.status
  | .errcode => s.errcode
  | .errinfo => s.errinfo
  | .ctrl => s.ctrl
  | .capIn => BitVec.ofNat 32 s.params.inSize
  | .capOut => BitVec.ofNat 32 s.params.outSize
  | .capMx => BitVec.ofNat 32 s.params.mxSize
  | .inLen => s.inLen
  | .outLen => s.outLen
  | .rectX => s.rectX
  | .rectY => s.rectY
  | .rectW => s.rectW
  | .rectH => s.rectH
  | .srcX => s.srcX
  | .srcY => s.srcY
  | .pfCtrl => s.pfCtrl
  | .pfRmax => s.pfRmax
  | .pfGmax => s.pfGmax
  | .pfBmax => s.pfBmax
  | .pfShift => s.pfShift
  | .mxAlen => s.mxAlen
  | .mxBlen => s.mxBlen
  | .mxMlen => s.mxMlen
  | .mxMinlen => s.mxMinlen
  | .mxRlen => s.mxRlen

/-- The bits of a word register that a rule names; all others are reserved and read 0 (R21). -/
def WordReg.mask (r : WordReg) : Word :=
  match r with
  | .cmd => 0
  | .status => 0x0000000F
  | .errcode => 0x000000FF
  | .ctrl => 0x00000001
  | .rectX => 0x0000FFFF
  | .rectY => 0x0000FFFF
  | .rectW => 0x0000FFFF
  | .rectH => 0x0000FFFF
  | .srcX => 0x0000FFFF
  | .srcY => 0x0000FFFF
  | .pfCtrl => 0x00FF0303
  | .pfRmax => 0x0000FFFF
  | .pfGmax => 0x0000FFFF
  | .pfBmax => 0x0000FFFF
  | .pfShift => 0x00FFFFFF
  | .id => 0xFFFFFFFF
  | .errinfo => 0xFFFFFFFF
  | .capIn => 0xFFFFFFFF
  | .capOut => 0xFFFFFFFF
  | .capMx => 0xFFFFFFFF
  | .inLen => 0xFFFFFFFF
  | .outLen => 0xFFFFFFFF
  | .mxAlen => 0xFFFFFFFF
  | .mxBlen => 0xFFFFFFFF
  | .mxMlen => 0xFFFFFFFF
  | .mxMinlen => 0xFFFFFFFF
  | .mxRlen => 0xFFFFFFFF

/-- Acceptance of the command word `c` (R85): PEND latches it, BUSY is set, DONE, ERR, ERRCODE and ERRINFO are
cleared, OVR and everything else stay. It is also what leaves the error state (R253). -/
def State.acceptCommand (s : State) (c : Word) : State :=
  { s with pend := c, status := statusWord true false false s.ovr, errcode := 0, errinfo := 0 }

/-- A host write of `v` to a word register with BUSY = 0 (R69): RW registers store the bits that are not reserved
(R21), RO registers ignore the write, CMD accepts a command, STATUS is write-1-to-clear (R24). -/
def WordReg.write (r : WordReg) (s : State) (v : Word) : State :=
  match r with
  | .cmd => s.acceptCommand v
  | .status => { s with status := s.statusWrite1Clear v }
  | .ctrl => { s with ctrl := v &&& WordReg.mask .ctrl }
  | .inLen => { s with inLen := v &&& WordReg.mask .inLen }
  | .rectX => { s with rectX := v &&& WordReg.mask .rectX }
  | .rectY => { s with rectY := v &&& WordReg.mask .rectY }
  | .rectW => { s with rectW := v &&& WordReg.mask .rectW }
  | .rectH => { s with rectH := v &&& WordReg.mask .rectH }
  | .pfCtrl => { s with pfCtrl := v &&& WordReg.mask .pfCtrl }
  | .pfRmax => { s with pfRmax := v &&& WordReg.mask .pfRmax }
  | .pfGmax => { s with pfGmax := v &&& WordReg.mask .pfGmax }
  | .pfBmax => { s with pfBmax := v &&& WordReg.mask .pfBmax }
  | .pfShift => { s with pfShift := v &&& WordReg.mask .pfShift }
  | .mxAlen => { s with mxAlen := v &&& WordReg.mask .mxAlen }
  | .mxBlen => { s with mxBlen := v &&& WordReg.mask .mxBlen }
  | .mxMlen => { s with mxMlen := v &&& WordReg.mask .mxMlen }
  | .mxMinlen => { s with mxMinlen := v &&& WordReg.mask .mxMinlen }
  | .id => s
  | .errcode => s
  | .errinfo => s
  | .capIn => s
  | .capOut => s
  | .capMx => s
  | .outLen => s
  | .srcX => s
  | .srcY => s
  | .mxRlen => s

/-! ## Byte-wide locations -/

/-- What a host read of a byte-wide location returns: DES_KEY is write-only and reads 0x00 (R33). -/
def ByteLoc.read (l : ByteLoc) (s : State) : Byte :=
  match l with
  | .desKey _ => 0
  | .desIn i => s.desIn.get i
  | .desOut i => s.desOut.get i
  | .buf b i => s.bufByte b i

/-- A host write of `v` to a byte-wide location with BUSY = 0 (R69): DES_OUT, OUT and MX_R are read-only and ignore
it (R35, R45, R47). -/
def ByteLoc.write (l : ByteLoc) (s : State) (v : Byte) : State :=
  match l with
  | .desKey i => { s with desKey := s.desKey.set i v }
  | .desIn i => { s with desIn := s.desIn.set i v }
  | .desOut _ => s
  | .buf b i => if b.readOnly then s else { s with mem := s.mem.write (b.base + i) v }

/-! ## Completions -/

/-- `complete OK` after the updates (R88): BUSY and ERR 0, DONE 1, ERRCODE and ERRINFO 0. -/
def State.completeOk (s : State) : State :=
  { s with status := statusWord false true false s.ovr, errcode := 0, errinfo := 0 }

/-- `complete ERR(code, info)` (R89, R252), the block's one form of exception entry: BUSY 0, DONE and ERR 1, ERRCODE
and ERRINFO written, nothing else changed. -/
def State.completeErr (s : State) (e : CmdError) : State :=
  { s with status := statusWord false true true s.ovr, errcode := e.code.toWord, errinfo := e.info }

/-- The end of the engine's step (R87): the updated state with `complete OK`, or the old state with the error. -/
def finish (s : State) (result : Except CmdError State) : Host.Outcome State Fault Refusal :=
  match result with
  | .ok t => .next t.completeOk
  | .error e => .next (s.completeErr e)

/-! ## Commits of results -/

/-- The bytes of a pixel sequence, R, G, B, A in ascending order (R171). -/
def rgbaBytes (px : List Rgba) : List Byte := px.flatMap fun c => [c.r, c.g, c.b, c.a]

/-- Commits a pixel sequence: OUT[0..4n) and OUT_LEN = 4n for n pixels (R171, R180). -/
def State.withPixels (s : State) (px : List Rgba) : State :=
  { s with mem := s.mem.writeBytes (Buf.base .out) (rgbaBytes px), outLen := BitVec.ofNat 32 (4 * px.length) }

/-- Commits an MX result of n bytes: MX_R[0..n) and MX_RLEN = n (R142). -/
def State.withMxResult (s : State) (bs : List Byte) : State :=
  { s with mem := s.mem.writeBytes (Buf.base .mxR) bs, mxRlen := BitVec.ofNat 32 bs.length }

/-! ## The reset event -/

/-- The buffers after a reset with the given contents (R272, log 4): `fill`, changed at those listed offsets that lie
in a buffer. -/
def resetMemory (p : Params) (fill : Fill) (cells : List Host.Cell) : Memory :=
  (cells.filter fun c => (bufAt p c.1).isSome).foldl (fun m c => m.write c.1 c.2) ⟨fill, []⟩

/-- The reset event (R270, R271, R273): every register and region at its reset value, the pending command cancelled,
the buffers as given; the parameters are constants (R28), and the events still to come are the host's. -/
def State.afterReset (s : State) (fill : Fill) (cells : List Host.Cell) : State :=
  { State.reset with mem := resetMemory s.params fill cells, params := s.params, sched := s.sched }

end Sys2Proof.Machine
end

