-- ==== Sys2Proof/Machine/Control.lean ====
section
/-! DEFINITION. The control commands NOP and CLEAR (45_control.md). -/

namespace Sys2Proof.Machine

/-- The updates of CLEAR (R231): every register, region and buffer byte 0, CTRL, STATUS.OVR and PEND 0. The
parameters are constants and stay. -/
def State.cleared (s : State) : State :=
  { s with
    desKey := #v[0, 0, 0, 0, 0, 0, 0, 0]
    desIn := #v[0, 0, 0, 0, 0, 0, 0, 0]
    desOut := #v[0, 0, 0, 0, 0, 0, 0, 0]
    mem := ⟨.zero, []⟩
    inLen := 0
    outLen := 0
    rectX := 0
    rectY := 0
    rectW := 0
    rectH := 0
    srcX := 0
    srcY := 0
    pfCtrl := 0
    pfRmax := 0
    pfGmax := 0
    pfBmax := 0
    pfShift := 0
    mxAlen := 0
    mxBlen := 0
    mxMlen := 0
    mxMinlen := 0
    mxRlen := 0
    ctrl := 0
    status := statusWord s.busy s.done s.err false
    pend := 0 }

/-- NOP (R230): completes OK with no update. -/
def execNop (s : State) : Host.Outcome State Fault Refusal := finish s (.ok s)

/-- CLEAR (R231). -/
def execClear (s : State) : Host.Outcome State Fault Refusal := finish s (.ok s.cleared)

end Sys2Proof.Machine
end

