-- ==== Sys2Proof/Machine/Px.lean ====
section
/-! DEFINITION. The PX unit (42_pixel.md): one pixel, a buffer of pixels, and PX.CONV. -/

namespace Sys2Proof.Machine

/-- The raw value of a pixel's bytes, in the byte order of the format (R162). -/
def rawValue (f : PixelFormat) (p : List Byte) : Nat := if f.bigEndian then natOf p else natOf p.reverse

/-- One true-colour channel (R163): `((raw >> shift) & max) * 255 / max`, truncating (R7). -/
def channel (raw shift max : Nat) : Byte := BitVec.ofNat 8 ((((raw >>> shift) &&& max) * 255) / max)

/-- `pix` (R167): the RGBA value of a pixel's bytes under a legal format; true colour by R163, grayscale by R165,
alpha always 255 (R164). -/
def pix (f : PixelFormat) (p : List Byte) : Rgba :=
  let raw := rawValue f p
  if f.trueColour then
    ⟨channel raw f.redShift f.redMax, channel raw f.greenShift f.greenMax, channel raw f.blueShift f.blueMax, 255⟩
  else ⟨BitVec.ofNat 8 raw, BitVec.ofNat 8 raw, BitVec.ofNat 8 raw, 255⟩

/-- The pixel whose bytes start at offset `a` of the input. -/
def pixAt (f : PixelFormat) (bs : List Byte) (a : Nat) : Rgba := pix f (slice bs a f.bpp)

/-- `convert_to_rgba` (R168). -/
def convertToRgba (f : PixelFormat) (bs : List Byte) : List Rgba :=
  (List.range (bs.length / f.bpp)).map fun k => pixAt f bs (k * f.bpp)

/-- The check on IN_LEN that PX.CONV and the decoders run (R169, R182, R185). -/
def checkInLen (s : State) : Except CmdError Unit :=
  if s.inLen.toNat > s.params.inSize then .error ⟨.capacity, 0⟩ else .ok ()

/-- IN[0..IN_LEN), the source's `raw_bytes` (R44). -/
def State.payload (s : State) : List Byte := s.bufBytes .inp s.inLen.toNat

/-- The rule of PX.CONV (R169). -/
def pxConv (s : State) : Except CmdError State := do
  let f ← s.pfCheck
  checkInLen s
  let n := s.inLen.toNat / f.bpp
  if 4 * n > s.params.outSize then .error ⟨.capacity, 0⟩
  else if s.inLen.toNat % f.bpp ≠ 0 then .error ⟨.protocol, BitVec.ofNat 32 (n * f.bpp)⟩
  else .ok (s.withPixels (convertToRgba f s.payload))

/-- PX.CONV (R169). -/
def execPxConv (s : State) : Host.Outcome State Fault Refusal := finish s (pxConv s)

end Sys2Proof.Machine
end

