-- ==== Sys2Proof/Machine/Dec.lean ====
section
/-! DEFINITION. The DEC unit, part 1 (43_rect_raw_copyrect_rre.md): the common rules, and DEC.RAW, DEC.COPYRECT and
DEC.RRE. Each decoder is a pure function of the payload bytes; the state enters only in its command's rule. -/

namespace Sys2Proof.Machine

/-- The pixel array under construction, `px(col, row)` (R180): a local value of a decoder, no state (R49). -/
abbrev Canvas := Nat → Nat → Rgba

/-- The `W*H` pixels of a rectangle, row-major, top to bottom (R180). -/
def Canvas.pixels (px : Canvas) (w h : Nat) : List Rgba :=
  (List.range h).flatMap fun row => (List.range w).map fun col => px col row

/-- Assigns `c` to every pixel of the w by h area with top left corner (x, y). -/
def Canvas.fill (px : Canvas) (x y w h : Nat) (c : Rgba) : Canvas :=
  fun col row => if x ≤ col ∧ col < x + w ∧ y ≤ row ∧ row < y + h then c else px col row

/-- How much of an extent of `len` from `start` on lies below `bound` (R189, R216). -/
def clipped (start len bound : Nat) : Nat := min len (bound - start)

/-- `need(n)` at the cursor `cur` (R181). -/
def need (bs : List Byte) (cur n : Nat) : Except CmdError Unit :=
  if cur + n > bs.length then .error ⟨.protocol, BitVec.ofNat 32 cur⟩ else .ok ()

/-- `readpix()` at the cursor (R181): the pixel and the cursor after it. -/
def readPix (f : PixelFormat) (bs : List Byte) (cur : Nat) : Except CmdError (Rgba × Nat) := do
  need bs cur f.bpp
  .ok (pixAt f bs cur, cur + f.bpp)

/-- The common pre-checks of DEC.RAW, DEC.RRE and DEC.HEXTILE (R182), in order, giving the format. -/
def decPreCheck (s : State) : Except CmdError PixelFormat := do
  let f ← s.pfCheck
  checkInLen s
  if s.rectWidth * s.rectHeight * 4 > s.params.outSize then .error ⟨.capacity, 0⟩ else .ok f

/-- `decode_raw` (R184). -/
def decodeRaw (f : PixelFormat) (w h : Nat) (bs : List Byte) : Except CmdError Canvas := do
  need bs 0 (w * h * f.bpp)
  .ok fun col row => pixAt f bs ((row * w + col) * f.bpp)

/-- The rule of DEC.RAW (R184). -/
def decRaw (s : State) : Except CmdError State := do
  let f ← decPreCheck s
  let px ← decodeRaw f s.rectWidth s.rectHeight s.payload
  .ok (s.withPixels (px.pixels s.rectWidth s.rectHeight))

/-- DEC.RAW (R184). -/
def execDecRaw (s : State) : Host.Outcome State Fault Refusal := finish s (decRaw s)

/-- `decode_copyrect` (R185): the source coordinates. -/
def decodeCopyrect (bs : List Byte) : Except CmdError (Nat × Nat) := do
  need bs 0 4
  .ok (be16At bs 0, be16At bs 2)

/-- The rule of DEC.COPYRECT (R185): only SRC_X and SRC_Y are written. -/
def decCopyrect (s : State) : Except CmdError State := do
  checkInLen s
  let xy ← decodeCopyrect s.payload
  .ok { s with srcX := BitVec.ofNat 32 xy.1, srcY := BitVec.ofNat 32 xy.2 }

/-- DEC.COPYRECT (R185). -/
def execDecCopyrect (s : State) : Host.Outcome State Fault Refusal := finish s (decCopyrect s)

/-- Paints one RRE subrectangle record at offset `cur` of the payload (R186, R187), clipped to the rectangle (R189). -/
def rreRecord (f : PixelFormat) (w h : Nat) (bs : List Byte) (cur : Nat) (px : Canvas) : Canvas :=
  let x := be16At bs (cur + f.bpp)
  let y := be16At bs (cur + f.bpp + 2)
  let rw := be16At bs (cur + f.bpp + 4)
  let rh := be16At bs (cur + f.bpp + 6)
  px.fill x y (clipped x rw w) (clipped y rh h) (pixAt f bs cur)

/-- The subrectangle loop of RRE for `count` more records (R187); it stops early, without an error, at a record that
is not wholly there (R188). -/
def rreLoop (f : PixelFormat) (w h : Nat) (bs : List Byte) (count cur : Nat) (px : Canvas) : Canvas :=
  match count with
  | 0 => px
  | count + 1 =>
    if cur + f.bpp + 8 > bs.length then px
    else rreLoop f w h bs count (cur + f.bpp + 8) (rreRecord f w h bs cur px)

/-- `decode_rre` (R187): the background, then the subrectangles in wire order. -/
def decodeRre (f : PixelFormat) (w h : Nat) (bs : List Byte) : Except CmdError Canvas := do
  need bs 0 4
  let bg ← readPix f bs 4
  .ok (rreLoop f w h bs (be32At bs 0) bg.2 fun _ _ => bg.1)

/-- The rule of DEC.RRE (R187). -/
def decRre (s : State) : Except CmdError State := do
  let f ← decPreCheck s
  let px ← decodeRre f s.rectWidth s.rectHeight s.payload
  .ok (s.withPixels (px.pixels s.rectWidth s.rectHeight))

/-- DEC.RRE (R187). -/
def execDecRre (s : State) : Host.Outcome State Fault Refusal := finish s (decRre s)

end Sys2Proof.Machine
end

