-- ==== Sys2Proof/Machine/Des.lean ====
section
/-! DEFINITION. The DES unit (40_des.md): key preparation, key schedule, sixteen Feistel rounds, and DES.ENC.
A bit string of n bits (R9) is a `BitVec n`; bit 1, the leftmost, is the most significant. The tables and the bit
numbering are the spec's, which supplied them from general knowledge (PRESUMED, log 9). -/

namespace Sys2Proof.Machine

/-- `y = T(x)` with `y_i = x_{T[i]}` for i = 1 .. m (R9), for a table of length m. -/
def permute {n : Nat} (m : Nat) (table : List Nat) (x : BitVec n) : BitVec m :=
  BitVec.ofNat m (table.foldl (fun acc t => 2 * acc + (x.getMsbD (t - 1)).toNat) 0)

/-- PC-1 (R102). -/
def pc1 : List Nat :=
  [57, 49, 41, 33, 25, 17, 9, 1, 58, 50, 42, 34, 26, 18, 10, 2, 59, 51, 43, 35, 27, 19, 11, 3, 60, 52, 44, 36,
    63, 55, 47, 39, 31, 23, 15, 7, 62, 54, 46, 38, 30, 22, 14, 6, 61, 53, 45, 37, 29, 21, 13, 5, 28, 20, 12, 4]

/-- The rotation amounts of the sixteen rounds (R104). -/
def rotations : List Nat := [1, 1, 2, 2, 2, 2, 2, 2, 1, 2, 2, 2, 2, 2, 2, 1]

/-- PC-2 (R105). -/
def pc2 : List Nat :=
  [14, 17, 11, 24, 1, 5, 3, 28, 15, 6, 21, 10, 23, 19, 12, 4, 26, 8, 16, 7, 27, 20, 13, 2,
    41, 52, 31, 37, 47, 55, 30, 40, 51, 45, 33, 48, 44, 49, 39, 56, 34, 53, 46, 42, 50, 36, 29, 32]

/-- The Initial Permutation IP (R107). -/
def ipTable : List Nat :=
  [58, 50, 42, 34, 26, 18, 10, 2, 60, 52, 44, 36, 28, 20, 12, 4, 62, 54, 46, 38, 30, 22, 14, 6,
    64, 56, 48, 40, 32, 24, 16, 8, 57, 49, 41, 33, 25, 17, 9, 1, 59, 51, 43, 35, 27, 19, 11, 3,
    61, 53, 45, 37, 29, 21, 13, 5, 63, 55, 47, 39, 31, 23, 15, 7]

/-- The expansion E (R111). -/
def eTable : List Nat :=
  [32, 1, 2, 3, 4, 5, 4, 5, 6, 7, 8, 9, 8, 9, 10, 11, 12, 13, 12, 13, 14, 15, 16, 17,
    16, 17, 18, 19, 20, 21, 20, 21, 22, 23, 24, 25, 24, 25, 26, 27, 28, 29, 28, 29, 30, 31, 32, 1]

/-- The permutation P (R115). -/
def pTable : List Nat :=
  [16, 7, 20, 21, 29, 12, 28, 17, 1, 15, 23, 26, 5, 18, 31, 10,
    2, 8, 24, 14, 32, 27, 3, 9, 19, 13, 30, 6, 22, 11, 4, 25]

/-- The Final Permutation FP (R116). -/
def fpTable : List Nat :=
  [40, 8, 48, 16, 56, 24, 64, 32, 39, 7, 47, 15, 55, 23, 63, 31, 38, 6, 46, 14, 54, 22, 62, 30,
    37, 5, 45, 13, 53, 21, 61, 29, 36, 4, 44, 12, 52, 20, 60, 28, 35, 3, 43, 11, 51, 19, 59, 27,
    34, 2, 42, 10, 50, 18, 58, 26, 33, 1, 41, 9, 49, 17, 57, 25]

/-- S1 (R114), its four rows one after another. -/
def sbox1 : List Nat :=
  [14, 4, 13, 1, 2, 15, 11, 8, 3, 10, 6, 12, 5, 9, 0, 7,
    0, 15, 7, 4, 14, 2, 13, 1, 10, 6, 12, 11, 9, 5, 3, 8,
    4, 1, 14, 8, 13, 6, 2, 11, 15, 12, 9, 7, 3, 10, 5, 0,
    15, 12, 8, 2, 4, 9, 1, 7, 5, 11, 3, 14, 10, 0, 6, 13]

/-- S2 (R114). -/
def sbox2 : List Nat :=
  [15, 1, 8, 14, 6, 11, 3, 4, 9, 7, 2, 13, 12, 0, 5, 10,
    3, 13, 4, 7, 15, 2, 8, 14, 12, 0, 1, 10, 6, 9, 11, 5,
    0, 14, 7, 11, 10, 4, 13, 1, 5, 8, 12, 6, 9, 3, 2, 15,
    13, 8, 10, 1, 3, 15, 4, 2, 11, 6, 7, 12, 0, 5, 14, 9]

/-- S3 (R114). -/
def sbox3 : List Nat :=
  [10, 0, 9, 14, 6, 3, 15, 5, 1, 13, 12, 7, 11, 4, 2, 8,
    13, 7, 0, 9, 3, 4, 6, 10, 2, 8, 5, 14, 12, 11, 15, 1,
    13, 6, 4, 9, 8, 15, 3, 0, 11, 1, 2, 12, 5, 10, 14, 7,
    1, 10, 13, 0, 6, 9, 8, 7, 4, 15, 14, 3, 11, 5, 2, 12]

/-- S4 (R114). -/
def sbox4 : List Nat :=
  [7, 13, 14, 3, 0, 6, 9, 10, 1, 2, 8, 5, 11, 12, 4, 15,
    13, 8, 11, 5, 6, 15, 0, 3, 4, 7, 2, 12, 1, 10, 14, 9,
    10, 6, 9, 0, 12, 11, 7, 13, 15, 1, 3, 14, 5, 2, 8, 4,
    3, 15, 0, 6, 10, 1, 13, 8, 9, 4, 5, 11, 12, 7, 2, 14]

/-- S5 (R114). -/
def sbox5 : List Nat :=
  [2, 12, 4, 1, 7, 10, 11, 6, 8, 5, 3, 15, 13, 0, 14, 9,
    14, 11, 2, 12, 4, 7, 13, 1, 5, 0, 15, 10, 3, 9, 8, 6,
    4, 2, 1, 11, 10, 13, 7, 8, 15, 9, 12, 5, 6, 3, 0, 14,
    11, 8, 12, 7, 1, 14, 2, 13, 6, 15, 0, 9, 10, 4, 5, 3]

/-- S6 (R114). -/
def sbox6 : List Nat :=
  [12, 1, 10, 15, 9, 2, 6, 8, 0, 13, 3, 4, 14, 7, 5, 11,
    10, 15, 4, 2, 7, 12, 9, 5, 6, 1, 13, 14, 0, 11, 3, 8,
    9, 14, 15, 5, 2, 8, 12, 3, 7, 0, 4, 10, 1, 13, 11, 6,
    4, 3, 2, 12, 9, 5, 15, 10, 11, 14, 1, 7, 6, 0, 8, 13]

/-- S7 (R114). -/
def sbox7 : List Nat :=
  [4, 11, 2, 14, 15, 0, 8, 13, 3, 12, 9, 7, 5, 10, 6, 1,
    13, 0, 11, 7, 4, 9, 1, 10, 14, 3, 5, 12, 2, 15, 8, 6,
    1, 4, 11, 13, 12, 3, 7, 14, 10, 15, 6, 8, 0, 5, 9, 2,
    6, 11, 13, 8, 1, 4, 10, 7, 9, 5, 0, 15, 14, 2, 3, 12]

/-- S8 (R114). -/
def sbox8 : List Nat :=
  [13, 2, 8, 4, 6, 15, 11, 1, 10, 9, 3, 14, 5, 0, 12, 7,
    1, 15, 13, 8, 10, 3, 7, 4, 12, 5, 6, 11, 0, 14, 9, 2,
    7, 11, 4, 1, 9, 12, 14, 2, 0, 6, 10, 13, 15, 3, 5, 8,
    2, 1, 14, 7, 4, 10, 8, 13, 15, 12, 9, 0, 3, 5, 6, 11]

/-- The eight S-boxes in order (R114). -/
def sboxes : List (List Nat) := [sbox1, sbox2, sbox3, sbox4, sbox5, sbox6, sbox7, sbox8]

/-- The bit string of a byte array (R9): bit 1 is the most significant bit of byte 0. -/
def bitsOf (r : Bytes8) : BitVec 64 := BitVec.ofNat 64 (natOf r.toList)

/-- The byte array of a 64-bit string (R117), the inverse of `bitsOf`. -/
def bytesOf (y : BitVec 64) : Bytes8 :=
  #v[y.extractLsb' 56 8, y.extractLsb' 48 8, y.extractLsb' 40 8, y.extractLsb' 32 8,
    y.extractLsb' 24 8, y.extractLsb' 16 8, y.extractLsb' 8 8, y.extractLsb' 0 8]

/-- Key preparation (R101): with KR = 1 every byte is bit-reversed on its own. -/
def prepareKey (kr : Bool) (key : Bytes8) : Bytes8 := if kr then key.map rev8 else key

/-- The halves C[n] and D[n] and from them the subkeys K[n], for the remaining rotation amounts (R104, R105). -/
def subkeysFrom (amounts : List Nat) (c d : BitVec 28) : List (BitVec 48) :=
  match amounts with
  | [] => []
  | a :: rest => permute 48 pc2 (c.rotateLeft a ++ d.rotateLeft a) ::
      subkeysFrom rest (c.rotateLeft a) (d.rotateLeft a)

/-- The subkeys K[1] to K[16] of a prepared key (R102 to R105). -/
def keySchedule (key : Bytes8) : List (BitVec 48) :=
  let cd : BitVec 56 := permute 56 pc1 (bitsOf key)
  subkeysFrom rotations (cd.extractLsb' 28 28) (cd.extractLsb' 0 28)

/-- S-box substitution of one 6-bit group (R113): row `b1 b6`, column `b2 b3 b4 b5`. -/
def sboxEntry (box : List Nat) (g : BitVec 6) : Nat :=
  let row := 2 * (g.getMsbD 0).toNat + (g.getMsbD 5).toNat
  box.getD (16 * row + (g.extractLsb' 1 4).toNat) 0

/-- `S1(g1) ‖ ... ‖ S8(g8)` for the eight groups of a 48-bit string, g1 being bits 1 to 6 (R110, R112). -/
def substitute (t : BitVec 48) : BitVec 32 :=
  BitVec.ofNat 32
    (sboxes.zipIdx.foldl (fun acc bj => 16 * acc + sboxEntry bj.1 (t.extractLsb' (42 - 6 * bj.2) 6)) 0)

/-- The round function f(R, K) (R110 to R115). -/
def roundF (r : BitVec 32) (k : BitVec 48) : BitVec 32 := permute 32 pTable (substitute (permute 48 eTable r ^^^ k))

/-- One Feistel round (R109) on the pair (L, R). -/
def desRound (lr : BitVec 32 × BitVec 32) (k : BitVec 48) : BitVec 32 × BitVec 32 := (lr.2, lr.1 ^^^ roundF lr.2 k)

/-- Encryption of one block under the sixteen subkeys (R107 to R117): IP, the rounds, the swapped halves, FP. -/
def encryptBlock (keys : List (BitVec 48)) (block : Bytes8) : Bytes8 :=
  let x : BitVec 64 := permute 64 ipTable (bitsOf block)
  let lr := keys.foldl desRound (x.extractLsb' 32 32, x.extractLsb' 0 32)
  bytesOf (permute 64 fpTable (lr.2 ++ lr.1))

/-- `des_encrypt_block` of a key, with the key-reversal modifier (R100). -/
def desEncrypt (kr : Bool) (key block : Bytes8) : Bytes8 := encryptBlock (keySchedule (prepareKey kr key)) block

/-- DES.ENC and DES.ENC.KR (R100): DES_OUT from DES_KEY and DES_IN; no error of its own. -/
def execDesEnc (kr : Bool) (s : State) : Host.Outcome State Fault Refusal :=
  finish s (.ok { s with desOut := desEncrypt kr s.desKey s.desIn })

end Sys2Proof.Machine
end

