-- ==== Sys2Proof/Machine/Hextile.lean ====
section
/-! DEFINITION. The DEC unit, part 2 (44_rect_hextile.md): DEC.HEXTILE. -/

namespace Sys2Proof.Machine

/-- What the tile loop carries from tile to tile: the cursor, the running background and foreground (R212), and the
pixel array. A local value of the decoder, no state (R49). -/
structure HexState where
  cur : Nat
  bg : Rgba
  fg : Rgba
  px : Canvas

/-- The tile origins (tx, ty) in raster order (R210). -/
def tileOrigins (w h : Nat) : List (Nat × Nat) :=
  (List.range ((h + 15) / 16)).flatMap fun j => (List.range ((w + 15) / 16)).map fun i => (16 * i, 16 * j)

/-- A RAW tile (R213): tw by th pixels, row-major within the tile. -/
def hexRawTile (f : PixelFormat) (bs : List Byte) (tx ty tw th : Nat) (st : HexState) : Except CmdError HexState := do
  need bs st.cur (tw * th * f.bpp)
  .ok
    { st with
      cur := st.cur + tw * th * f.bpp
      px := fun col row =>
        if tx ≤ col ∧ col < tx + tw ∧ ty ≤ row ∧ row < ty + th then
          pixAt f bs (st.cur + ((row - ty) * tw + (col - tx)) * f.bpp)
        else st.px col row }

/-- The colour of a subrectangle and the cursor after it (R215): its own if SUBRECTS_COLOURED, else the running
foreground. -/
def hexColour (f : PixelFormat) (bs : List Byte) (coloured : Bool) (st : HexState) : Except CmdError (Rgba × Nat) :=
  if coloured then readPix f bs st.cur else .ok (st.fg, st.cur)

/-- One subrectangle (R215): its colour (its own if `coloured`, else the running foreground), `xy`, `wh`, painted
clipped to the tile (R216). -/
def hexSubrect (f : PixelFormat) (bs : List Byte) (tx ty tw th : Nat) (coloured : Bool) (st : HexState) :
    Except CmdError HexState := do
  let c ← hexColour f bs coloured st
  need bs c.2 1
  need bs (c.2 + 1) 1
  let xy := byteAt bs c.2
  let wh := byteAt bs (c.2 + 1)
  let x := (xy.extractLsb' 4 4).toNat
  let y := (xy.extractLsb' 0 4).toNat
  let w := (wh.extractLsb' 4 4).toNat + 1
  let h := (wh.extractLsb' 0 4).toNat + 1
  .ok { st with cur := c.2 + 2, px := st.px.fill (tx + x) (ty + y) (clipped x w tw) (clipped y h th) c.1 }

/-- The `n` subrectangles of a tile, in wire order (R215). -/
def hexSubrects (f : PixelFormat) (bs : List Byte) (tx ty tw th : Nat) (coloured : Bool) (n : Nat) (st : HexState) :
    Except CmdError HexState :=
  match n with
  | 0 => .ok st
  | n + 1 => do
    let st' ← hexSubrect f bs tx ty tw th coloured st
    hexSubrects f bs tx ty tw th coloured n st'

/-- BG_SPECIFIED (R214): a new running background, if the flag is set. -/
def hexBackground (f : PixelFormat) (bs : List Byte) (specified : Bool) (st : HexState) : Except CmdError HexState :=
  if specified then do
    let c ← readPix f bs st.cur
    .ok { st with bg := c.1, cur := c.2 }
  else .ok st

/-- FG_SPECIFIED (R214): a new running foreground, if the flag is set. -/
def hexForeground (f : PixelFormat) (bs : List Byte) (specified : Bool) (st : HexState) : Except CmdError HexState :=
  if specified then do
    let c ← readPix f bs st.cur
    .ok { st with fg := c.1, cur := c.2 }
  else .ok st

/-- ANY_SUBRECTS (R215): the count byte and the subrectangles, if the flag is set. -/
def hexAnySubrects (f : PixelFormat) (bs : List Byte) (tx ty tw th : Nat) (any coloured : Bool) (st : HexState) :
    Except CmdError HexState :=
  if any then do
    need bs st.cur 1
    hexSubrects f bs tx ty tw th coloured (byteAt bs st.cur).toNat { st with cur := st.cur + 1 }
  else .ok st

/-- A tile without RAW (R214, R215): background, fill, foreground, subrectangles. -/
def hexFilledTile (f : PixelFormat) (bs : List Byte) (tx ty tw th : Nat) (flags : Byte) (st : HexState) :
    Except CmdError HexState := do
  let st ← hexBackground f bs (flags.getLsbD 1) st
  let st ← hexForeground f bs (flags.getLsbD 2) { st with px := st.px.fill tx ty tw th st.bg }
  hexAnySubrects f bs tx ty tw th (flags.getLsbD 3) (flags.getLsbD 4) st

/-- One tile (R211, R213, R219): the flag byte, then a RAW tile or a filled one. Bits 5 to 7 are ignored (R218). -/
def hexTile (f : PixelFormat) (bs : List Byte) (w h : Nat) (st : HexState) (origin : Nat × Nat) :
    Except CmdError HexState := do
  need bs st.cur 1
  let flags := byteAt bs st.cur
  let st' := { st with cur := st.cur + 1 }
  let tw := min 16 (w - origin.1)
  let th := min 16 (h - origin.2)
  if flags.getLsbD 0 then hexRawTile f bs origin.1 origin.2 tw th st'
  else hexFilledTile f bs origin.1 origin.2 tw th flags st'

/-- `decode_hextile` (R219): the tiles in raster order, from the initial colours `bg` and `fg` (R212). Every pixel is
assigned by its tile, so the colour the array starts with is never seen. -/
def decodeHextile (f : PixelFormat) (w h : Nat) (bg fg : Rgba) (bs : List Byte) : Except CmdError Canvas := do
  let st ← (tileOrigins w h).foldlM (hexTile f bs w h) ⟨0, bg, fg, fun _ _ => bg⟩
  .ok st.px

/-- The rule of DEC.HEXTILE (R219). -/
def decHextile (s : State) : Except CmdError State := do
  let f ← decPreCheck s
  let px ← decodeHextile f s.rectWidth s.rectHeight s.params.hxInitBg s.params.hxInitFg s.payload
  .ok (s.withPixels (px.pixels s.rectWidth s.rectHeight))

/-- DEC.HEXTILE (R219). -/
def execDecHextile (s : State) : Host.Outcome State Fault Refusal := finish s (decHextile s)

end Sys2Proof.Machine
end

