-- ==== Sys2Proof/Machine/Mx.lean ====
section
/-! DEFINITION. The MX unit (41_modexp.md): the big-integer primitives on natural numbers, modular exponentiation as
the spec's loops, and the three commands. A limb array is not observable (R130), so a big integer is a `Nat`
(log 12). -/

namespace Sys2Proof.Machine

/-- `cmp(a, b)` (R135): the order of two natural numbers. -/
def bigCmp (a b : Nat) : Ordering := if a < b then .lt else if a = b then .eq else .gt

/-- The precondition of `sub` follows from the comparison that guards it (R136, R139). -/
theorem le_of_bigCmp_ne_lt {a b : Nat} (h : bigCmp a b ≠ .lt) : b ≤ a := by
  unfold bigCmp at h
  split at h
  · exact absurd rfl h
  · omega

/-- `sub(a, b)` (R136), only for b <= a. -/
def bigSub (a b : Nat) (_ : b ≤ a) : Nat := a - b

/-- `shl1(a) = 2a` (R137). -/
def shl1 (a : Nat) : Nat := 2 * a

/-- `shr1(a) = floor(a / 2)` (R137). -/
def shr1 (a : Nat) : Nat := a / 2

/-- `mul(a, b)`, the exact product (R138). -/
def bigMul (a b : Nat) : Nat := a * b

/-- One iteration of `modulo` (R139): shift the remainder, OR in bit `i` of the dividend, subtract the modulus if the
remainder is not smaller than it. -/
def moduloStep (a m i r : Nat) : Nat :=
  let r' := shl1 r ||| (a.testBit i).toNat
  if h : bigCmp r' m = .lt then r' else bigSub r' m (le_of_bigCmp_ne_lt h)

/-- The loop of `modulo` for the bits i-1 down to 0 (R139). -/
def moduloLoop (a m i r : Nat) : Nat :=
  match i with
  | 0 => r
  | i + 1 => moduloLoop a m i (moduloStep a m i r)

/-- `modulo(a, m)`, the binary long division of R139, meant for m >= 1. -/
def modulo (a m : Nat) : Nat := moduloLoop a m (bitlen a) 0

/-- The loop of `mod_pow` (R140); the first argument bounds the number of iterations, which `bitlen(e)` meets. -/
def modPowLoop (fuel m result b e : Nat) : Nat :=
  match fuel with
  | 0 => result
  | fuel + 1 =>
    if e = 0 then result
    else modPowLoop fuel m (if e % 2 = 1 then modulo (bigMul result b) m else result) (modulo (bigMul b b) m) (shr1 e)

/-- `mod_pow(base, exp, m)` (R140): 1 for a zero modulus, else right-to-left square and multiply. -/
def modPow (base exp m : Nat) : Nat := if m = 0 then 1 else modPowLoop (bitlen exp) m 1 base exp

/-- `to_bytes_be(v, min_len)` (R132). -/
def toBytesBe (v minLen : Nat) : List Byte := beBytes v (max minLen (natlen v))

/-- The fetch of one MX operand (R131, R133): ERR_CAPACITY for a length above MX_SIZE, else the value. -/
def mxOperand (s : State) (b : Buf) (len : Word) : Except CmdError Nat :=
  if len.toNat > s.params.mxSize then .error ⟨.capacity, 0⟩ else .ok (natOf (s.bufBytes b len.toNat))

/-- The common ending of the three commands (R142). -/
def mxWriteBack (s : State) (v : Nat) : Except CmdError State :=
  if max s.mxMinlen.toNat (natlen v) > 2 * s.params.mxSize then .error ⟨.capacity, 0⟩
  else .ok (s.withMxResult (toBytesBe v s.mxMinlen.toNat))

/-- The rule of MX.MODPOW (R143). -/
def mxModpow (s : State) : Except CmdError State := do
  let a ← mxOperand s .mxA s.mxAlen
  let b ← mxOperand s .mxB s.mxBlen
  let m ← mxOperand s .mxM s.mxMlen
  mxWriteBack s (modPow a b m)

/-- The rule of MX.MOD (R144): ERR_DIVZERO for a zero modulus. -/
def mxMod (s : State) : Except CmdError State := do
  let a ← mxOperand s .mxA s.mxAlen
  let m ← mxOperand s .mxM s.mxMlen
  if m = 0 then .error ⟨.divzero, 0⟩ else mxWriteBack s (modulo a m)

/-- The rule of MX.MUL (R145). -/
def mxMul (s : State) : Except CmdError State := do
  let a ← mxOperand s .mxA s.mxAlen
  let b ← mxOperand s .mxB s.mxBlen
  mxWriteBack s (bigMul a b)

/-- MX.MODPOW (R143). -/
def execMxModpow (s : State) : Host.Outcome State Fault Refusal := finish s (mxModpow s)

/-- MX.MOD (R144). -/
def execMxMod (s : State) : Host.Outcome State Fault Refusal := finish s (mxMod s)

/-- MX.MUL (R145). -/
def execMxMul (s : State) : Host.Outcome State Fault Refusal := finish s (mxMul s)

end Sys2Proof.Machine
end

