-- ==== Sys2Proof/Machine/Dispatch.lean ====
section
/-! DEFINITION. The meaning of every command (R87, R95), one arm per constructor. -/

namespace Sys2Proof.Machine

/-- The engine's step for the command `i` (R87). -/
def exec (i : Instr) (s : State) : Host.Outcome State Fault Refusal :=
  match i with
  | .nop => Sys2Proof.Machine.execNop s
  | .clear => Sys2Proof.Machine.execClear s
  | .desEnc kr => Sys2Proof.Machine.execDesEnc kr s
  | .mxModpow => Sys2Proof.Machine.execMxModpow s
  | .mxMod => Sys2Proof.Machine.execMxMod s
  | .mxMul => Sys2Proof.Machine.execMxMul s
  | .pxConv => Sys2Proof.Machine.execPxConv s
  | .decRaw => Sys2Proof.Machine.execDecRaw s
  | .decCopyrect => Sys2Proof.Machine.execDecCopyrect s
  | .decRre => Sys2Proof.Machine.execDecRre s
  | .decHextile => Sys2Proof.Machine.execDecHextile s

end Sys2Proof.Machine
end

