-- ==== Sys2Proof/Machine/Port.lean ====
section
/-! DEFINITION. The slave port (20_memory.md): the two primitives PortRead and PortWrite of the host at the widths 1
and 4 (R62, R63), the bus error (R64), and the writes dropped while BUSY = 1 (R86). -/

namespace Sys2Proof.Machine

/-- PortRead(addr, 4) (R62): the value of the word register at `addr`; a bus error where there is none (R64 a, c, d). -/
def portRead32 (s : State) (addr : Offset) : Except Fault Word :=
  match wordAt addr.toNat with
  | some r => .ok (r.read s)
  | none => .error .busError

/-- PortRead(addr, 1) (R62): the byte at `addr`; a bus error where no byte-wide location is (R64 a, b). -/
def portRead8 (s : State) (addr : Offset) : Except Fault Byte :=
  match byteLocAt s.params addr.toNat with
  | some l => .ok (l.read s)
  | none => .error .busError

/-- A write that finds BUSY = 1 is dropped and sets STATUS.OVR (R86, R261). -/
def State.dropWrite (s : State) : State := { s with status := statusWord s.busy s.done s.err true }

/-- PortWrite(addr, 4, v) (R62): the bus-error check first (R64), then BUSY (R86), then the write (R69). -/
def portWrite32 (s : State) (addr : Offset) (v : Word) : Except Fault State :=
  match wordAt addr.toNat with
  | some r => .ok (if s.busy then s.dropWrite else r.write s v)
  | none => .error .busError

/-- PortWrite(addr, 1, v) (R62), checked in the same order. -/
def portWrite8 (s : State) (addr : Offset) (v : Byte) : Except Fault State :=
  match byteLocAt s.params addr.toNat with
  | some l => .ok (if s.busy then s.dropWrite else l.write s v)
  | none => .error .busError

/-- One port transaction of the host (R62), its response in `resp`; a bus error changes nothing else (R64). -/
def portStep (s : State) (op : PortOp) : State :=
  match op with
  | .read8 addr =>
    match portRead8 s addr with
    | .ok v => { s with resp := some (.byte v) }
    | .error .busError => { s with resp := some .error }
  | .read32 addr =>
    match portRead32 s addr with
    | .ok v => { s with resp := some (.word v) }
    | .error .busError => { s with resp := some .error }
  | .write8 addr v =>
    match portWrite8 s addr v with
    | .ok t => { t with resp := some .written }
    | .error .busError => { s with resp := some .error }
  | .write32 addr v =>
    match portWrite32 s addr v with
    | .ok t => { t with resp := some .written }
    | .error .busError => { s with resp := some .error }

end Sys2Proof.Machine
end

