-- ==== Sys2Proof/Machine/Engine.lean ====
section
/-! DEFINITION. The engine's step (R87) and the step of the whole system for one event (R71). -/

namespace Sys2Proof.Machine

/-- The engine's step (R87): with BUSY = 1 it decodes PEND and runs the command, or completes an illegal word with
ERR_CMD and the word as ERRINFO (R94, R242); with BUSY = 0 there is no step, and nothing changes (R259, log 6). -/
def engineStep (s : State) : Host.Outcome State Fault Refusal :=
  if s.busy then
    match decode s.pend with
    | .ok i => exec i s
    | .error _ => .next (s.completeErr ⟨.cmd, s.pend⟩)
  else .next s

/-- The step of the system for the event `e` (R12, R71). -/
def eventStep (e : Event) (s : State) : Host.Outcome State Fault Refusal :=
  match e with
  | .engine => engineStep s
  | .port op => .next (portStep s op)
  | .reset fill cells => .next (s.afterReset fill cells)

/-- The event that moves next: the first of `sched`; with none waiting, the engine's step (R280, log 5). -/
def State.nextEvent (s : State) : Event :=
  match s.sched with
  | [] => .engine
  | e :: _ => e

/-- The state with the next event taken off `sched`. -/
def State.popEvent (s : State) : State := { s with sched := s.sched.tail }

/-- The state in which the engine's next step, which is the very next step of the system, runs the command word `w`
(log 11): the host's acceptance of `w` (R85) with no event waiting before the engine. -/
def State.primed (s : State) (w : Word) : State := { s.acceptCommand w with sched := [] }

end Sys2Proof.Machine
end

