-- ==== Sys2Proof/Machine/Step.lean ====
section
/-! DEFINITION. One step of the system (R71), and where the next command comes from. -/

namespace Sys2Proof.Machine

/-- One step: the event whose turn it is, on the state without it. -/
def step (s : State) : Host.Outcome State Fault Refusal := eventStep s.nextEvent s.popEvent

/-- `s` with the command word of the bits `w` (of a table row of `nbits` bits, the bits above it zero) accepted, so
that the very next step runs it (log 11). -/
def State.withFetchWord (s : State) (nbits w : Nat) : State := s.primed (BitVec.ofNat 32 (w % 2 ^ nbits))

end Sys2Proof.Machine
end

