-- ==== Sys2Proof/Safety.lean ====
section
/-! DEFINITION. What counts as a good state and a safe step: the invariants that the rules keep (R21, R24, R30, R52,
R142, R180, R241), and the absence of a stop. -/

namespace Sys2Proof.Machine

/-- The lifecycle invariants that R24 states, and R241: only the codes 0 to 5 are ever written. -/
structure LifecycleInv (s : State) : Prop where
  /-- BUSY = 1 implies DONE = 0 and ERR = 0 (R24). -/
  idle_flags : s.busy = true → s.done = false ∧ s.err = false
  /-- ERR = 1 implies ERRCODE != 0 (R24). -/
  err_code : s.err = true → s.errcode ≠ 0
  /-- ERR = 0 implies ERRCODE = 0 and ERRINFO = 0 (R24). -/
  ok_code : s.err = false → s.errcode = 0 ∧ s.errinfo = 0
  /-- ERRCODE is one of the codes of R241. -/
  code_range : s.errcode.toNat ≤ 5

/-- The buffers: the canonical form of the memory, and every listed byte inside a buffer (R61). -/
structure MemoryInv (s : State) : Prop where
  wf : s.mem.wf
  mapped : ∀ c ∈ s.mem.cells, (bufAt s.params c.1).isSome = true

/-- The result lengths fit their buffers (R142, R180, R169), and OUT_LEN is a multiple of 4 (R30). -/
structure LengthInv (s : State) : Prop where
  outLen_le : s.outLen.toNat ≤ s.params.outSize
  outLen_mod : s.outLen.toNat % 4 = 0
  mxRlen_le : s.mxRlen.toNat ≤ 2 * s.params.mxSize

/-- The reserved bits of every word register read 0 (R21). -/
def ReservedInv (s : State) : Prop := ∀ r : WordReg, r.read s &&& ~~~r.mask = 0

/-- The invariant of the block: legal parameters (R5), and the four parts above. -/
structure State.Inv (s : State) : Prop where
  params : s.params.wf = true
  lifecycle : LifecycleInv s
  memory : MemoryInv s
  lengths : LengthInv s
  reserved : ReservedInv s

/-- A step that goes on: "Nothing in the block is `stuck`: every command completes". -/
def StepGoesOn (s : State) : Prop := ∃ t, step s = .next t

end Sys2Proof.Machine
end

