-- ==== Sys2Proof/Certificates/Slice0/Obligations.lean ====
section
/-! DEFINITION. The statements about the model that the provers are asked to settle, and the vocabulary they are
written in: the spec's own formulas on the bytes and bits of the state. -/

open Sys2Proof Sys2Proof.Machine

namespace Sys2Proof.Claims

/-- The eleven OP values of R82. -/
def opcodes : List Byte :=
  [0x00#8, 0x01#8, 0x10#8, 0x20#8, 0x21#8, 0x22#8, 0x30#8, 0x40#8, 0x41#8, 0x42#8, 0x43#8]

/-- The twelve legal command words (R82, R84). -/
def legalWords : List Word :=
  [0x00000000#32, 0x00000001#32, 0x00000010#32, 0x00000110#32, 0x00000020#32, 0x00000021#32, 0x00000022#32,
    0x00000030#32, 0x00000040#32, 0x00000041#32, 0x00000042#32, 0x00000043#32]

/-- OP, bits 7:0 of a command word (R80). -/
def opField (c : Word) : Byte := c.extractLsb' 0 8

/-- ZERO, bits 31:9 of a command word (R80). -/
def zeroField (c : Word) : BitVec 23 := c.extractLsb' 9 23

/-- The three clauses of R84. -/
def IllegalWord (c : Word) : Prop :=
  zeroField c ≠ 0 ∨ opField c ∉ opcodes ∨ (c.getLsbD 8 = true ∧ opField c ≠ 0x10#8)

/-- The flags and error registers of a command that completed OK (R88). -/
def CompletedOk (s t : State) : Prop :=
  t.busy = false ∧ t.done = true ∧ t.err = false ∧ t.ovr = s.ovr ∧ t.errcode = 0 ∧ t.errinfo = 0

/-- The four ways a pixel format is illegal (R161 a to d). -/
def IllegalFormat (s : State) : Prop :=
  s.pfCtrl.extractLsb' 0 2 = 3#2 ∨
    (s.pfCtrl.getLsbD 9 = true ∧
      (s.pfRmax.extractLsb' 0 16 = 0#16 ∨ s.pfGmax.extractLsb' 0 16 = 0#16 ∨ s.pfBmax.extractLsb' 0 16 = 0#16)) ∨
    (s.pfCtrl.getLsbD 9 = true ∧
      (32 ≤ (s.pfShift.extractLsb' 0 8).toNat ∨ 32 ≤ (s.pfShift.extractLsb' 8 8).toNat ∨
        32 ≤ (s.pfShift.extractLsb' 16 8).toNat)) ∨
    (s.pfCtrl.getLsbD 9 = false ∧ s.pfCtrl.extractLsb' 0 2 ≠ 0#2)

/-- Bytes per pixel of a legal format: 1, 2, 4 for BPPSEL = 0, 1, 2 (R160). -/
def bytesPerPixel (s : State) : Nat := 2 ^ (s.pfCtrl.extractLsb' 0 2).toNat

/-- IN[i] as a number. -/
def inByte (s : State) (i : Nat) : Nat := (s.bufByte .inp i).toNat

/-- The raw value of the pixel at IN offset `a` (R162): big-endian or little-endian by PF_CTRL.BIG_ENDIAN. -/
def rawPixel (s : State) (a : Nat) : Nat :=
  ((List.range (bytesPerPixel s)).map fun i =>
    256 ^ (if s.pfCtrl.getLsbD 8 then bytesPerPixel s - 1 - i else i) * inByte s (a + i)).sum

/-- The channel formula of R163. -/
def channelValue (raw : Nat) (shift : BitVec 8) (max : BitVec 16) : Nat :=
  (((raw / 2 ^ shift.toNat) &&& max.toNat) * 255) / max.toNat

/-- `c` is the RGBA value of the pixel at IN offset `a` (R163, R164, R165). -/
def IsPixelAt (s : State) (a : Nat) (c : Rgba) : Prop :=
  c.a = 255 ∧
    if s.pfCtrl.getLsbD 9 = true then
      c.r.toNat = channelValue (rawPixel s a) (s.pfShift.extractLsb' 0 8) (s.pfRmax.extractLsb' 0 16) ∧
      c.g.toNat = channelValue (rawPixel s a) (s.pfShift.extractLsb' 8 8) (s.pfGmax.extractLsb' 0 16) ∧
      c.b.toNat = channelValue (rawPixel s a) (s.pfShift.extractLsb' 16 8) (s.pfBmax.extractLsb' 0 16)
    else c.r.toNat = inByte s a ∧ c.g.toNat = inByte s a ∧ c.b.toNat = inByte s a

/-- Pixel number `k` of OUT (R171). -/
def outPixel (t : State) (k : Nat) : Rgba :=
  ⟨t.bufByte .out (4 * k), t.bufByte .out (4 * k + 1), t.bufByte .out (4 * k + 2), t.bufByte .out (4 * k + 3)⟩

/-- What a command that wrote `n` pixels left (R88, R95, R171, R180): the completion, OUT_LEN = 4n, and every register
and every byte outside OUT[0..4n) as before. -/
structure WrotePixels (s t : State) (n : Nat) : Prop where
  completed : CompletedOk s t
  outLen : t.outLen.toNat = 4 * n
  bytes : ∀ a, a < 0x4000000 ∨ 0x4000000 + 4 * n ≤ a → t.mem.read a = s.mem.read a
  others : t = { s with
    mem := t.mem, outLen := t.outLen, status := t.status, errcode := t.errcode, errinfo := t.errinfo }

/-- What an MX command with the value `v` left (R88, R95, R142): the completion, MX_RLEN, the big-endian bytes of `v`
in MX_R[0..MX_RLEN), and every register and every other byte as before. -/
structure WroteNumber (s t : State) (v : Nat) : Prop where
  completed : CompletedOk s t
  rlen : t.mxRlen.toNat = max s.mxMinlen.toNat (natlen v)
  value : natOf (t.bufBytes .mxR t.mxRlen.toNat) = v
  bytes : ∀ a, a < 0x040000 ∨ 0x040000 + t.mxRlen.toNat ≤ a → t.mem.read a = s.mem.read a
  others : t = { s with
    mem := t.mem, mxRlen := t.mxRlen, status := t.status, errcode := t.errcode, errinfo := t.errinfo }

/-- The operands of the MX commands (R131). -/
def operandA (s : State) : Nat := natOf (s.bufBytes .mxA s.mxAlen.toNat)

/-- As `operandA`. -/
def operandB (s : State) : Nat := natOf (s.bufBytes .mxB s.mxBlen.toNat)

/-- As `operandA`. -/
def operandM (s : State) : Nat := natOf (s.bufBytes .mxM s.mxMlen.toNat)

/-- An MX result that fits MX_R (R142). -/
def ResultFits (s : State) (v : Nat) : Prop := max s.mxMinlen.toNat (natlen v) ≤ 2 * s.params.mxSize

/-- The result of `mod_pow` by the table of R141. -/
def powerTable (base exp m : Nat) : Nat :=
  if m = 0 then 1 else if exp = 0 then 1 else base ^ exp % m

/-- Bit p (1 to 64) of a byte array as a bit string (R9): bit 8i + j is bit 8 - j of byte i. -/
def byteBit (r : Bytes8) (p : Nat) : Bool := (r.toList.getD ((p - 1) / 8) 0).getLsbD (7 - (p - 1) % 8)

/-- Bit p of the prepared key (R101): with KR = 1 the bits of every byte are in reverse order. -/
def keyBit (kr : Bool) (key : Bytes8) (p : Nat) : Bool :=
  if kr then (key.toList.getD ((p - 1) / 8) 0).getLsbD ((p - 1) % 8) else byteBit key p

/-- `R ‖ L` and the like, read bit by bit. -/
def pairBit {n : Nat} (x y : BitVec n) (p : Nat) : Bool :=
  if p ≤ n then x.getMsbD (p - 1) else y.getMsbD (p - n - 1)

/-- A 32-bit offset of the address map that carries a word register (R61). -/
def WordMapped (x : Nat) : Prop :=
  x % 4 = 0 ∧ (x ≤ 0x20 ∨ (0x40 ≤ x ∧ x ≤ 0x70) ∨ (0x80 ≤ x ∧ x ≤ 0x90))

/-- An offset of the address map that carries a byte-wide location (R61). -/
def ByteMapped (p : Params) (x : Nat) : Prop :=
  (0x100 ≤ x ∧ x < 0x118) ∨ (0x010000 ≤ x ∧ x < 0x010000 + p.mxSize) ∨ (0x020000 ≤ x ∧ x < 0x020000 + p.mxSize) ∨
    (0x030000 ≤ x ∧ x < 0x030000 + p.mxSize) ∨ (0x040000 ≤ x ∧ x < 0x040000 + 2 * p.mxSize) ∨
    (0x1000000 ≤ x ∧ x < 0x1000000 + p.inSize) ∨ (0x4000000 ≤ x ∧ x < 0x4000000 + p.outSize)

/-- The state but for the sticky OVR and the last response. -/
def butOvrAndResp (t : State) : State := { t with status := statusWord t.busy t.done t.err false, resp := none }

/-- Two big-endian bytes of IN (R67 c). -/
def in16 (s : State) (a : Nat) : Nat := 256 * inByte s a + inByte s (a + 1)

/-- The subrectangle count of an RRE payload (R186). -/
def rreCount (s : State) : Nat := 65536 * in16 s 0 + in16 s 2

/-- The offset of RRE record `r` (R186): the header is 4 + bpp bytes, a record bpp + 8. -/
def rreOffset (s : State) (r : Nat) : Nat := 4 + bytesPerPixel s + r * (bytesPerPixel s + 8)

/-- The number of records DEC.RRE applies: those declared, as far as they are wholly there (R188). -/
def rreApplied (s : State) : Nat :=
  min (rreCount s) ((s.inLen.toNat - (4 + bytesPerPixel s)) / (bytesPerPixel s + 8))

/-- RRE record `r` covers the pixel (col, row) (R186, R187). -/
def RreCovers (s : State) (r col row : Nat) : Prop :=
  let o := rreOffset s r + bytesPerPixel s
  in16 s o ≤ col ∧ col < in16 s o + in16 s (o + 4) ∧ in16 s (o + 2) ≤ row ∧ row < in16 s (o + 2) + in16 s (o + 6)

/-- The Hextile subrectangle whose `xy` and `wh` bytes stand at IN offset `o` covers tile pixel (col, row) (R215). -/
def HexCovers (s : State) (o col row : Nat) : Prop :=
  inByte s o / 16 ≤ col ∧ col < inByte s o / 16 + (inByte s (o + 1) / 16 + 1) ∧
    inByte s o % 16 ≤ row ∧ row < inByte s o % 16 + (inByte s (o + 1) % 16 + 1)

/-- The offset of coloured subrectangle `q` of a tile at IN offset 0 with a flag byte, a background, a count and
subrectangles of bpp + 2 bytes (R211, R215). -/
def hexOffset (s : State) (q : Nat) : Nat := 2 + bytesPerPixel s + q * (bytesPerPixel s + 2)

/-- Bit `i` of the flag byte at payload offset `c` of a Hextile tile (R211). -/
def tileFlag (bs : List Byte) (c i : Nat) : Bool := (byteAt bs c).getLsbD i

/-- The offset behind an optional field of `k` bytes at `a`. -/
def behind (present : Bool) (a k : Nat) : Nat := if present then a + k else a

/-- Where the foreground of the tile with its flag byte at `c` stands: behind the optional background (R211, R214). -/
def tileFgAt (f : PixelFormat) (bs : List Byte) (c : Nat) : Nat := behind (tileFlag bs c 1) (c + 1) f.bpp

/-- Where its subrectangle count stands: behind the optional foreground. -/
def tileCountAt (f : PixelFormat) (bs : List Byte) (c : Nat) : Nat := behind (tileFlag bs c 2) (tileFgAt f bs c) f.bpp

/-- Its subrectangle count (R215). -/
def tileCount (f : PixelFormat) (bs : List Byte) (c : Nat) : Nat := (byteAt bs (tileCountAt f bs c)).toNat

/-- Where its subrectangle `q` starts: `xy` and `wh`, behind a colour of its own if SUBRECTS_COLOURED (R211, R215). -/
def tileSubAt (f : PixelFormat) (bs : List Byte) (c q : Nat) : Nat :=
  tileCountAt f bs c + 1 + q * behind (tileFlag bs c 4) 2 f.bpp

/-- Where the `xy` byte of subrectangle `q` stands. -/
def tileXyAt (f : PixelFormat) (bs : List Byte) (c q : Nat) : Nat :=
  behind (tileFlag bs c 4) (tileSubAt f bs c q) f.bpp

/-- The background in force behind the optional background of the tile (R212, R214). -/
def tileBg (f : PixelFormat) (bs : List Byte) (st : HexState) : Rgba :=
  if tileFlag bs st.cur 1 then pixAt f bs (st.cur + 1) else st.bg

/-- The foreground in force behind its optional foreground. -/
def tileFg (f : PixelFormat) (bs : List Byte) (st : HexState) : Rgba :=
  if tileFlag bs st.cur 2 then pixAt f bs (tileFgAt f bs st.cur) else st.fg

/-- The extent of a tile from `t` on in a rectangle of extent `n` (R210). -/
def tileExtent (n t : Nat) : Nat := min 16 (n - t)

/-- Tile pixel (i, j) lies in the subrectangle whose `xy` byte stands at `o` (R215). -/
def TileCovers (bs : List Byte) (o i j : Nat) : Prop :=
  (byteAt bs o).toNat / 16 ≤ i ∧ i < (byteAt bs o).toNat / 16 + ((byteAt bs (o + 1)).toNat / 16 + 1) ∧
    (byteAt bs o).toNat % 16 ≤ j ∧ j < (byteAt bs o).toNat % 16 + ((byteAt bs (o + 1)).toNat % 16 + 1)

/-- The guarded reads of a tile of `n` pixels with its flag byte at `c`, in order, as (offset, bytes) (R217, R219): the
flag byte; the RAW data; or background, foreground, count, and for each subrectangle its colour, `xy` and `wh`. -/
def tileReads (f : PixelFormat) (bs : List Byte) (c n : Nat) : List (Nat × Nat) :=
  (c, 1) ::
    if tileFlag bs c 0 then [(c + 1, n * f.bpp)]
    else
      (if tileFlag bs c 1 then [(c + 1, f.bpp)] else []) ++
      (if tileFlag bs c 2 then [(tileFgAt f bs c, f.bpp)] else []) ++
      if tileFlag bs c 3 then
        (tileCountAt f bs c, 1) :: (List.range (tileCount f bs c)).flatMap fun q =>
          (if tileFlag bs c 4 then [(tileSubAt f bs c q, f.bpp)] else []) ++
            [(tileXyAt f bs c q, 1), (tileXyAt f bs c q + 1, 1)]
      else []

/-- The first read of a list that the payload does not hold. -/
def firstShort (bs : List Byte) (reads : List (Nat × Nat)) : Option (Nat × Nat) :=
  reads.find? fun r => decide (bs.length < r.1 + r.2)

/-- The start of the tile loop of DEC.HEXTILE (R212, R219) over a pixel array `px`. -/
def hexStart (s : State) (px : Canvas) : HexState := ⟨0, s.params.hxInitBg, s.params.hxInitFg, px⟩

/-- DEC.HEXTILE on the first `k` tiles of the rectangle, as it finds the payload. -/
def hexTiles (s : State) (k : Nat) (st : HexState) : Except CmdError HexState :=
  ((tileOrigins s.rectWidth s.rectHeight).take k).foldlM
    (hexTile (s.formatWith (bytesPerPixel s)) s.payload s.rectWidth s.rectHeight) st

/-- The tiles before tile `k` at (tx, ty) decode, and `r` is the first read of tile `k` that does not fit. -/
def ShortTile (s : State) (k tx ty : Nat) (r : Nat × Nat) : Prop :=
  (tileOrigins s.rectWidth s.rectHeight)[k]? = some (tx, ty) ∧
    ∃ st, hexTiles s k (hexStart s fun _ _ => s.params.hxInitBg) = .ok st ∧
      firstShort s.payload (tileReads (s.formatWith (bytesPerPixel s)) s.payload st.cur
        (tileExtent s.rectWidth tx * tileExtent s.rectHeight ty)) = some r

/-- What a tile leaves but for its pixels: the cursor, and the running colours (R212). -/
def TileLeaves (st' : HexState) (cur : Nat) (bg fg : Rgba) : Prop := st'.cur = cur ∧ st'.bg = bg ∧ st'.fg = fg

/-- The commands that convert pixels (R161). -/
def ConvertsPixels (i : Instr) : Prop := i = .pxConv ∨ i = .decRaw ∨ i = .decRre ∨ i = .decHextile

end Sys2Proof.Claims

open Sys2Proof.Claims

/-! ## Encoding and decoding -/

/-- R82 to R84: decoding and encoding agree both ways: the word of every command decodes to that command, and a word
that decodes is the word of the command it decodes to, so that no bit of a legal word is free. -/
def Obligations.DecodeAndEncodeAgree : Prop :=
  (∀ i : Instr, i.wf = true → decode (encode i) = .ok i) ∧
    ∀ (w : Word) (i : Instr), decode w = .ok i → encode i = w

/-- R82, R83: four words written out from the table, among them DES.ENC with and without KR. -/
def Obligations.TableWordsDecode : Prop :=
  decode 0x00000001#32 = .ok .clear ∧ decode 0x00000110#32 = .ok (.desEnc true) ∧
    decode 0x00000010#32 = .ok (.desEnc false) ∧ decode 0x00000022#32 = .ok .mxMul ∧
    decode 0x00000030#32 = .ok .pxConv ∧ decode 0x00000043#32 = .ok .decHextile

/-- R84: which words are illegal, that an illegal word is accepted and completed with ERR_CMD and nothing else, and
that exactly twelve words are legal. -/
def Obligations.IllegalWordsAreAcceptedAndFail : Prop :=
  (∀ w : Word, (∃ e, decode w = .error e) ↔ IllegalWord w) ∧
    (∀ (w : Word) (s : State), IllegalWord w → s.busy = false →
      (portStep s (.write32 0x004#27 w)).busy = true ∧ (portStep s (.write32 0x004#27 w)).pend = w) ∧
    (∀ s : State, s.busy = true → IllegalWord s.pend →
      engineStep s = .next { s with status := statusWord false true true s.ovr, errcode := 1, errinfo := s.pend }) ∧
    legalWords.Nodup ∧ legalWords.length = 12 ∧ ∀ w : Word, ¬IllegalWord w ↔ w ∈ legalWords

/-- R94: the engine judges the pending word in the order (a), (b), (c), (d). -/
def Obligations.EngineJudgesThePendingWord : Prop :=
  ∀ s : State, s.busy = true →
    (zeroField s.pend ≠ 0 → engineStep s = .next (s.completeErr ⟨.cmd, s.pend⟩)) ∧
    (zeroField s.pend = 0 → opField s.pend ∉ opcodes → engineStep s = .next (s.completeErr ⟨.cmd, s.pend⟩)) ∧
    (zeroField s.pend = 0 → opField s.pend ∈ opcodes → s.pend.getLsbD 8 = true → opField s.pend ≠ 0x10#8 →
      engineStep s = .next (s.completeErr ⟨.cmd, s.pend⟩)) ∧
    (zeroField s.pend = 0 → opField s.pend = 0x10#8 → engineStep s = exec (.desEnc (s.pend.getLsbD 8)) s) ∧
    (zeroField s.pend = 0 → s.pend.getLsbD 8 = false →
      (opField s.pend = 0x00#8 → engineStep s = exec .nop s) ∧
      (opField s.pend = 0x01#8 → engineStep s = exec .clear s) ∧
      (opField s.pend = 0x20#8 → engineStep s = exec .mxModpow s) ∧
      (opField s.pend = 0x21#8 → engineStep s = exec .mxMod s) ∧
      (opField s.pend = 0x22#8 → engineStep s = exec .mxMul s) ∧
      (opField s.pend = 0x30#8 → engineStep s = exec .pxConv s) ∧
      (opField s.pend = 0x40#8 → engineStep s = exec .decRaw s) ∧
      (opField s.pend = 0x41#8 → engineStep s = exec .decCopyrect s) ∧
      (opField s.pend = 0x42#8 → engineStep s = exec .decRre s) ∧
      (opField s.pend = 0x43#8 → engineStep s = exec .decHextile s))

/-! ## The lifecycle -/

/-- R87 with the model's schedule (log 5): when it is the engine's turn, BUSY = 1 and PEND decodes to the command i,
the step is exec of i, on the state with that turn taken off the schedule; nothing else of the state moves. -/
def Obligations.StepRunsTheDecodedCommand : Prop :=
  ∀ (s : State) (i : Instr), s.busy = true → decode s.pend = .ok i →
    (s.sched = [] → step s = exec i s) ∧
    ∀ rest, s.sched = .engine :: rest → step s = exec i { s with sched := rest }

/-- R85: acceptance. -/
def Obligations.AcceptanceLatchesTheCommand : Prop :=
  ∀ (s : State) (c : Word) (rest : List Event), s.busy = false → s.sched = .port (.write32 0x004#27 c) :: rest →
    ∃ t, step s = .next t ∧ t.busy = true ∧ t.done = false ∧ t.err = false ∧ t.ovr = s.ovr ∧ t.irq = false ∧
      t = { s with
        pend := c, status := statusWord true false false s.ovr, errcode := 0, errinfo := 0,
        resp := some .written, sched := rest }

/-- R86: while BUSY = 1 every write that is not a bus error is dropped with the answer OK and sets OVR, and no
transaction ends the command. With BUSY = 0 or 1 every read that is not a bus error returns the current value of its
location and changes nothing but the response (R68); and an acceptance changes, but for BUSY and its clears, no value
that a location reads. -/
def Obligations.WritesWhileBusyAreDropped : Prop :=
  (∀ s : State, s.busy = true →
    (∀ (a : Offset) (v : Word) (r : WordReg), wordAt a.toNat = some r →
      portStep s (.write32 a v) =
        { s with status := statusWord true s.done s.err true, resp := some .written }) ∧
    (∀ (a : Offset) (v : Byte) (l : ByteLoc), byteLocAt s.params a.toNat = some l →
      portStep s (.write8 a v) =
        { s with status := statusWord true s.done s.err true, resp := some .written }) ∧
    ∀ op : PortOp, (portStep s op).busy = true ∧ (portStep s op).pend = s.pend) ∧
  (∀ s : State,
    (∀ (a : Offset) (r : WordReg), wordAt a.toNat = some r →
      portStep s (.read32 a) = { s with resp := some (.word (r.read s)) }) ∧
    ∀ (a : Offset) (l : ByteLoc), byteLocAt s.params a.toNat = some l →
      portStep s (.read8 a) = { s with resp := some (.byte (l.read s)) }) ∧
  ∀ (s : State) (c : Word),
    (∀ r : WordReg, r ≠ .status → r ≠ .errcode → r ≠ .errinfo → r.read (s.acceptCommand c) = r.read s) ∧
    WordReg.status.read (s.acceptCommand c) = statusWord true false false s.ovr ∧
    WordReg.errcode.read (s.acceptCommand c) = 0 ∧ WordReg.errinfo.read (s.acceptCommand c) = 0 ∧
    ∀ l : ByteLoc, l.read (s.acceptCommand c) = l.read s

/-- R87, R88: the engine's step always exists when BUSY = 1 and ends the command, an OK completion with ERRCODE and
ERRINFO 0 and OVR kept but for CLEAR; with BUSY = 0 nothing moves (the model's form of "takes no step", log 6); and no
step of the system stops (93_implementation_defined.md). -/
def Obligations.EngineStepAlwaysCompletes : Prop :=
  ∀ s : State,
    (s.busy = true → ∃ t, engineStep s = .next t ∧ t.busy = false ∧ t.done = true ∧
      (t.err = false → t.errcode = 0 ∧ t.errinfo = 0 ∧ (decode s.pend ≠ .ok .clear → t.ovr = s.ovr))) ∧
    (s.busy = false → engineStep s = .next s) ∧ StepGoesOn s

/-- R89, R252: an error completion writes STATUS, ERRCODE and ERRINFO and nothing else. -/
def Obligations.ErrorCompletionChangesNothingElse : Prop :=
  ∀ s t : State, s.busy = true → engineStep s = .next t → t.err = true →
    t.busy = false ∧ t.done = true ∧ t.ovr = s.ovr ∧ 1 ≤ t.errcode.toNat ∧ t.errcode.toNat ≤ 5 ∧
      t = { s with status := t.status, errcode := t.errcode, errinfo := t.errinfo }

/-- R248: what ERRINFO holds. -/
def Obligations.ErrinfoByCode : Prop :=
  ∀ s t : State, s.busy = true → engineStep s = .next t →
    (t.errcode = 1 → t.errinfo = s.pend) ∧ (t.errcode = 2 → t.errinfo.toNat ≤ s.inLen.toNat) ∧
      (t.errcode ≠ 1 → t.errcode ≠ 2 → t.errinfo = 0)

/-- R280 with the model's finite schedule (log 5, DESIGN CHOICE): once BUSY = 1 the engine's step (or a reset) comes
within the host events that wait before it. -/
def Obligations.PendingCommandEndsWithinTheSchedule : Prop :=
  ∀ s : State, s.busy = true →
    ∃ k t, k ≤ s.sched.length + 1 ∧ Sys2Proof.core.run k s = .next t ∧ t.busy = false

/-- R73, R277: what the host does at the port while BUSY = 1 does not reach the command: the engine's step then gives
the same state, but for the sticky OVR and the host's last response. -/
def Obligations.BusyTrafficDoesNotReachTheCommand : Prop :=
  ∀ (ops : List PortOp) (s t u : State), s.busy = true → engineStep s = .next t →
    engineStep (ops.foldl portStep s) = .next u → butOvrAndResp u = butOvrAndResp t

/-! ## Invariants and reset -/

/-- R52 with the model's choices for State.reset (logs 1 and 3): the invariant holds right after reset. -/
def Obligations.InvariantHoldsAtReset : Prop := State.reset.Inv

/-- Every step keeps the invariant: legal parameters, the STATUS invariants that R24 states, ERRCODE within R241, the
canonical form of the buffers, the result lengths within their buffers, reserved bits 0 (R21). -/
def Obligations.EveryStepKeepsTheInvariant : Prop := ∀ s t : State, s.Inv → step s = .next t → t.Inv

/-- R270, R271, R273: the reset event, whatever the state, also in flight: every word register reads 0 but the
constants, the DES regions and PEND are 0, irq is 0, the pending command never runs; the buffers hold exactly the
contents the event brings (R272; the events' form is the model's, log 4). -/
def Obligations.ResetEventGivesTheResetState : Prop :=
  ∀ (s : State) (fill : Fill) (cells : List Host.Cell) (rest : List Event), s.sched = .reset fill cells :: rest →
    ∃ t, step s = .next t ∧ t.params = s.params ∧ t.sched = rest ∧
      (∀ r : WordReg, r ≠ .id → r ≠ .capIn → r ≠ .capOut → r ≠ .capMx → r.read t = 0) ∧
      WordReg.id.read t = 0x53423037 ∧ WordReg.capIn.read t = WordReg.capIn.read s ∧
      WordReg.capOut.read t = WordReg.capOut.read s ∧ WordReg.capMx.read t = WordReg.capMx.read s ∧
      t.desKey = #v[0, 0, 0, 0, 0, 0, 0, 0] ∧ t.desIn = #v[0, 0, 0, 0, 0, 0, 0, 0] ∧
      t.desOut = #v[0, 0, 0, 0, 0, 0, 0, 0] ∧ t.pend = 0 ∧ t.irq = false ∧ engineStep t = .next t ∧
      (∀ a, (∀ c ∈ cells, c.1 ≠ a) → t.mem.read a = (Memory.mk fill []).read a) ∧
      ∀ c ∈ cells, (∀ d ∈ cells, d.1 = c.1 → d = c) → (bufAt s.params c.1).isSome = true → t.mem.read c.1 = c.2

/-- R28: the capacity registers read the parameters, ignore writes, and no step changes them, a reset included. -/
def Obligations.CapacityRegistersAreConstant : Prop :=
  (∀ s : State,
    (portStep s (.read32 0x018#27)).resp = some (.word (BitVec.ofNat 32 s.params.inSize)) ∧
    (portStep s (.read32 0x01C#27)).resp = some (.word (BitVec.ofNat 32 s.params.outSize)) ∧
    (portStep s (.read32 0x020#27)).resp = some (.word (BitVec.ofNat 32 s.params.mxSize)) ∧
    (s.busy = false → ∀ v : Word, ∀ a ∈ [0x018#27, 0x01C#27, 0x020#27],
      portStep s (.write32 a v) = { s with resp := some .written })) ∧
  ∀ s t : State, step s = .next t → t.params = s.params

/-! ## The port -/

/-- R64: exactly the accesses the address map R61 does not have are bus errors, whatever BUSY is, and a bus error
changes nothing but the response. -/
def Obligations.BusErrorsExactly : Prop :=
  ∀ (s : State) (a : Offset),
    ((portStep s (.read32 a)).resp = some .error ↔ ¬WordMapped a.toNat) ∧
    ((portStep s (.read8 a)).resp = some .error ↔ ¬ByteMapped s.params a.toNat) ∧
    (∀ v : Word, ((portStep s (.write32 a v)).resp = some .error ↔ ¬WordMapped a.toNat) ∧
      (¬WordMapped a.toNat → portStep s (.write32 a v) = { s with resp := some .error })) ∧
    (∀ v : Byte, ((portStep s (.write8 a v)).resp = some .error ↔ ¬ByteMapped s.params a.toNat) ∧
      (¬ByteMapped s.params a.toNat → portStep s (.write8 a v) = { s with resp := some .error })) ∧
    (¬WordMapped a.toNat → portStep s (.read32 a) = { s with resp := some .error }) ∧
    (¬ByteMapped s.params a.toNat → portStep s (.read8 a) = { s with resp := some .error })

/-- R21, R69 with the masks of the register rules: with BUSY = 0 an RW register reads back what was written without
the reserved bits; a write to an RO register changes nothing; CMD reads 0; and a write to a word register other than
CMD changes what no other register and no byte-wide location reads, nor DES_KEY, nor PEND. -/
def Obligations.RegisterWriteThenRead : Prop :=
  ∀ (s : State) (v : Word), s.busy = false →
    (∀ am ∈ [(0x014#27, 0x00000001#32), (0x040#27, 0xFFFFFFFF#32), (0x048#27, 0x0000FFFF#32),
        (0x04C#27, 0x0000FFFF#32), (0x050#27, 0x0000FFFF#32), (0x054#27, 0x0000FFFF#32), (0x060#27, 0x00FF0303#32),
        (0x064#27, 0x0000FFFF#32), (0x068#27, 0x0000FFFF#32), (0x06C#27, 0x0000FFFF#32), (0x070#27, 0x00FFFFFF#32),
        (0x080#27, 0xFFFFFFFF#32), (0x084#27, 0xFFFFFFFF#32), (0x088#27, 0xFFFFFFFF#32), (0x08C#27, 0xFFFFFFFF#32)],
      (portStep (portStep s (.write32 am.1 v)) (.read32 am.1)).resp = some (.word (v &&& am.2))) ∧
    (∀ a ∈ [0x000#27, 0x00C#27, 0x010#27, 0x018#27, 0x01C#27, 0x020#27, 0x044#27, 0x058#27, 0x05C#27, 0x090#27],
      portStep s (.write32 a v) = { s with resp := some .written }) ∧
    (portStep s (.read32 0x004#27)).resp = some (.word 0) ∧
    ∀ (a : Offset) (r : WordReg), wordAt a.toNat = some r → r ≠ .cmd →
      (∀ q : WordReg, q ≠ r → q.read (portStep s (.write32 a v)) = q.read s) ∧
      (∀ l : ByteLoc, l.read (portStep s (.write32 a v)) = l.read s) ∧
      (portStep s (.write32 a v)).desKey = s.desKey ∧ (portStep s (.write32 a v)).pend = s.pend

/-- R24: a host write of v to STATUS with BUSY = 0 clears DONE if bit 1 and OVR if bit 3 of v is 1, and does nothing
else; ERR, ERRCODE and ERRINFO stand (R253). -/
def Obligations.StatusWriteClearsDoneAndOvr : Prop :=
  ∀ (s : State) (v : Word), s.busy = false →
    (portStep s (.write32 0x008#27 v)).busy = false ∧
    (portStep s (.write32 0x008#27 v)).done = (s.done && !v.getLsbD 1) ∧
    (portStep s (.write32 0x008#27 v)).err = s.err ∧
    (portStep s (.write32 0x008#27 v)).ovr = (s.ovr && !v.getLsbD 3) ∧
    portStep s (.write32 0x008#27 v) =
      { s with status := (portStep s (.write32 0x008#27 v)).status, resp := some .written }

/-- R69, R33 to R35, R44 to R47: with BUSY = 0 a byte write to a mapped offset changes what that offset alone reads;
it reads back as written in DES_IN, IN, MX_A, MX_B and MX_M, as before in DES_OUT, OUT and MX_R, and as 0x00 in
DES_KEY; what DES_KEY holds changes by no write outside it; no word register and not PEND change. -/
def Obligations.ByteWriteChangesOneLocation : Prop :=
  ∀ (s : State) (a : Offset) (v : Byte), s.params.wf = true → s.busy = false → ByteMapped s.params a.toNat →
    (∀ b : Offset, b ≠ a →
      (portStep (portStep s (.write8 a v)) (.read8 b)).resp = (portStep s (.read8 b)).resp) ∧
    (portStep (portStep s (.write8 a v)) (.read8 a)).resp =
      (if a.toNat < 0x108 then some (.byte 0)
       else if (0x110 ≤ a.toNat ∧ a.toNat < 0x118) ∨ (0x040000 ≤ a.toNat ∧ a.toNat < 0x060000) ∨ 0x4000000 ≤ a.toNat
         then (portStep s (.read8 a)).resp
       else some (.byte v)) ∧
    (0x108 ≤ a.toNat → (portStep s (.write8 a v)).desKey = s.desKey) ∧
    (∀ r : WordReg, r.read (portStep s (.write8 a v)) = r.read s) ∧ (portStep s (.write8 a v)).pend = s.pend

/-- R33: DES_KEY is write-only: a byte written to DES_KEY[i] is there for DES.ENC, and no transaction's response
depends on what DES_KEY holds. -/
def Obligations.DesKeyIsNeverReadable : Prop :=
  (∀ (s : State) (i : Fin 8) (v : Byte), s.busy = false →
    (portStep s (.write8 (BitVec.ofNat 27 (0x100 + i)) v)).desKey = s.desKey.set i v) ∧
  ∀ (s : State) (key : Bytes8) (op : PortOp), (portStep { s with desKey := key } op).resp = (portStep s op).resp

/-- R251: the five ways to clear irq. -/
def Obligations.IrqIsCleared : Prop :=
  (∀ (s : State) (v : Word), s.busy = false → v.getLsbD 1 = true → (portStep s (.write32 0x008#27 v)).irq = false) ∧
    (∀ (s : State) (v : Word), s.busy = false → v.getLsbD 0 = false → (portStep s (.write32 0x014#27 v)).irq = false) ∧
    (∀ (s : State) (c : Word), s.busy = false → (portStep s (.write32 0x004#27 c)).irq = false) ∧
    (∀ s : State, ∃ t, exec .clear s = .next t ∧ t.irq = false ∧ t.ie = false) ∧
    ∀ (s : State) (fill : Fill) (cells : List Host.Cell), (s.afterReset fill cells).irq = false

/-- R54, R250: irq is CTRL.IE AND STATUS.DONE, and it rises at the engine's step of every command, OK or error, when
CTRL.IE = 1 (CLEAR alone clears IE with it, R231). -/
def Obligations.CompletionRaisesIrq : Prop :=
  (∀ s : State, s.irq = (s.ctrl.getLsbD 0 && s.status.getLsbD 1)) ∧
    ∀ s t : State, s.busy = true → engineStep s = .next t → decode s.pend ≠ .ok .clear →
      t.ctrl = s.ctrl ∧ t.irq = s.ctrl.getLsbD 0

/-! ## Frames over all commands -/

/-- R95 with R29, R31, R36 to R42, R44, R46: no command but CLEAR writes an operand: the host's registers, DES_KEY,
DES_IN, PEND, and the bytes of IN, MX_A, MX_B and MX_M. -/
def Obligations.OperandsSurviveEveryCommandButClear : Prop :=
  ∀ s t : State, s.params.wf = true → s.busy = true → engineStep s = .next t → decode s.pend ≠ .ok .clear →
    t.ctrl = s.ctrl ∧ t.inLen = s.inLen ∧ t.rectX = s.rectX ∧ t.rectY = s.rectY ∧ t.rectW = s.rectW ∧
      t.rectH = s.rectH ∧ t.pfCtrl = s.pfCtrl ∧ t.pfRmax = s.pfRmax ∧ t.pfGmax = s.pfGmax ∧ t.pfBmax = s.pfBmax ∧
      t.pfShift = s.pfShift ∧ t.mxAlen = s.mxAlen ∧ t.mxBlen = s.mxBlen ∧ t.mxMlen = s.mxMlen ∧
      t.mxMinlen = s.mxMinlen ∧ t.desKey = s.desKey ∧ t.desIn = s.desIn ∧ t.pend = s.pend ∧
      ∀ b ∈ [Buf.inp, .mxA, .mxB, .mxM], ∀ i < b.capacity s.params, t.bufByte b i = s.bufByte b i

/-- The frame of PX.CONV, DEC.RAW, DEC.RRE and DEC.HEXTILE (R95): only STATUS, ERRCODE, ERRINFO, OUT_LEN and the bytes
OUT[0..OUT_LEN) change, OVR not; after an error no byte and not OUT_LEN (R89). -/
def Obligations.PixelCommandFrame : Prop :=
  ∀ (i : Instr) (s t : State), ConvertsPixels i → s.params.wf = true → exec i s = .next t →
    t.ovr = s.ovr ∧
    t = { s with
      mem := t.mem, outLen := t.outLen, status := t.status, errcode := t.errcode, errinfo := t.errinfo } ∧
    (t.err = true → t.outLen = s.outLen ∧ ∀ a, t.mem.read a = s.mem.read a) ∧
    (t.err = false →
      ∀ a, a < Buf.base .out ∨ Buf.base .out + t.outLen.toNat ≤ a → t.mem.read a = s.mem.read a)

/-- The frame of MX.MODPOW, MX.MOD and MX.MUL (R95): only STATUS, ERRCODE, ERRINFO, MX_RLEN and the bytes
MX_R[0..MX_RLEN) change, OVR not; after an error no byte and not MX_RLEN (R89). -/
def Obligations.MxCommandFrame : Prop :=
  ∀ (i : Instr) (s t : State), (i = .mxModpow ∨ i = .mxMod ∨ i = .mxMul) → s.params.wf = true → exec i s = .next t →
    t.ovr = s.ovr ∧
    t = { s with
      mem := t.mem, mxRlen := t.mxRlen, status := t.status, errcode := t.errcode, errinfo := t.errinfo } ∧
    (t.err = true → t.mxRlen = s.mxRlen ∧ ∀ a, t.mem.read a = s.mem.read a) ∧
    (t.err = false →
      ∀ a, a < Buf.base .mxR ∨ Buf.base .mxR + t.mxRlen.toNat ≤ a → t.mem.read a = s.mem.read a)

/-- The frame of NOP, DES.ENC and DEC.COPYRECT (R95), which store no byte of a buffer: NOP changes the completion
registers only, DES.ENC also DES_OUT, DEC.COPYRECT also SRC_X and SRC_Y; OVR stays. -/
def Obligations.RegisterCommandFrame : Prop :=
  ∀ s t : State,
    (exec .nop s = .next t → t.ovr = s.ovr ∧ (∀ a, t.mem.read a = s.mem.read a) ∧
      t = { s with status := t.status, errcode := t.errcode, errinfo := t.errinfo }) ∧
    (∀ kr, exec (.desEnc kr) s = .next t → t.ovr = s.ovr ∧ (∀ a, t.mem.read a = s.mem.read a) ∧
      t = { s with desOut := t.desOut, status := t.status, errcode := t.errcode, errinfo := t.errinfo }) ∧
    (exec .decCopyrect s = .next t → t.ovr = s.ovr ∧ (∀ a, t.mem.read a = s.mem.read a) ∧
      t = { s with
        srcX := t.srcX, srcY := t.srcY, status := t.status, errcode := t.errcode, errinfo := t.errinfo })

/-! ## NOP and CLEAR -/

/-- R230: NOP completes OK and changes nothing else; from the reset state it leaves STATUS = 2. -/
def Obligations.NopOnlyCompletes : Prop :=
  (∀ s : State, ∃ t, exec .nop s = .next t ∧ CompletedOk s t ∧
    t = { s with status := t.status, errcode := 0, errinfo := 0 }) ∧
  engineStep (portStep State.reset (.write32 0x004#27 0x00000000#32)) =
    .next { State.reset with status := 0x00000002#32, resp := some .written }

/-- R231: CLEAR leaves the reset state but for DONE = 1 and every buffer byte 0x00; ID and the CAP registers are
unaffected; irq is 0; and DES.ENC after it gives the zero-key, zero-block ciphertext. While a command runs, CLEAR is
not accepted and does not interrupt it. -/
def Obligations.ClearZeroesEverything : Prop :=
  (∀ s : State, ∃ t, exec .clear s = .next t ∧
    t = { State.reset with
      status := 0x00000002#32, mem := t.mem, params := s.params, resp := s.resp, sched := s.sched } ∧
    (∀ a, t.mem.read a = 0) ∧ t.irq = false ∧
    ∃ u, exec (.desEnc false) t = .next u ∧ u.desOut = #v[0x8C, 0xA6, 0x4D, 0xE9, 0xC1, 0xB1, 0x23, 0xA7]) ∧
  ∀ s : State, s.busy = true → portStep s (.write32 0x004#27 0x00000001#32) =
    { s with status := statusWord true s.done s.err true, resp := some .written }

/-! ## DES -/

/-- R100 with R101 to R109, R116, R117: DES.ENC completes OK, and its DES_OUT is what the key schedule, the sixteen
rounds and the permutations give, bit by bit. -/
def Obligations.DesEncFollowsTheRounds : Prop :=
  ∀ (kr : Bool) (s : State),
    ∃ (c d : Nat → BitVec 28) (k : Nat → BitVec 48) (l r : Nat → BitVec 32) (t : State),
      exec (.desEnc kr) s = .next t ∧ CompletedOk s t ∧
      t = { s with desOut := t.desOut, status := t.status, errcode := 0, errinfo := 0 } ∧
      (∀ i < 28, (c 0).getMsbD i = keyBit kr s.desKey (pc1.getD i 0) ∧
        (d 0).getMsbD i = keyBit kr s.desKey (pc1.getD (28 + i) 0)) ∧
      (∀ n < 16, c (n + 1) = (c n).rotateLeft (rotations.getD n 0) ∧
        d (n + 1) = (d n).rotateLeft (rotations.getD n 0)) ∧
      (∀ n < 16, ∀ i < 48, (k (n + 1)).getMsbD i = pairBit (c (n + 1)) (d (n + 1)) (pc2.getD i 0)) ∧
      (∀ i < 32, (l 0).getMsbD i = byteBit s.desIn (ipTable.getD i 0) ∧
        (r 0).getMsbD i = byteBit s.desIn (ipTable.getD (32 + i) 0)) ∧
      (∀ n < 16, l (n + 1) = r n ∧ r (n + 1) = l n ^^^ roundF (r n) (k (n + 1))) ∧
      ∀ i < 64, byteBit t.desOut (i + 1) = pairBit (r 16) (l 16) (fpTable.getD i 0)

/-- R110 to R115: the round function expands, mixes the subkey in, substitutes each 6-bit group through its S-box by
row and column, and permutes. -/
def Obligations.RoundFunctionSubstitutesAndPermutes : Prop :=
  ∀ (r : BitVec 32) (k : BitVec 48), ∃ (t : BitVec 48) (u : BitVec 32),
    (∀ i < 48, t.getMsbD i = Bool.xor (r.getMsbD (eTable.getD i 0 - 1)) (k.getMsbD i)) ∧
    (∀ j < 8, (u.extractLsb' (28 - 4 * j) 4).toNat =
      (sboxes.getD j []).getD
        (16 * (2 * (t.getMsbD (6 * j)).toNat + (t.getMsbD (6 * j + 5)).toNat) +
          (8 * (t.getMsbD (6 * j + 1)).toNat + 4 * (t.getMsbD (6 * j + 2)).toNat +
            2 * (t.getMsbD (6 * j + 3)).toNat + (t.getMsbD (6 * j + 4)).toNat)) 0) ∧
    ∀ i < 32, (roundF r k).getMsbD i = u.getMsbD (pTable.getD i 0 - 1)

/-- R101: KR = 1 uses each key byte bit-reversed on its own: DES.ENC.KR gives what DES.ENC gives on the reversed
bytes, DES_KEY is not modified, and the two values of `rev8` that the source states hold. -/
def Obligations.KeyReversalModifier : Prop :=
  (∀ s : State, ∃ t u, exec (.desEnc true) s = .next t ∧
    exec (.desEnc false) { s with desKey := s.desKey.map rev8 } = .next u ∧ t.desOut = u.desOut ∧
    t.desKey = s.desKey) ∧
  (∀ (b : Byte) (i : Nat), i < 8 → (rev8 b).getLsbD i = b.getLsbD (7 - i)) ∧
  rev8 0b10000000#8 = 0b00000001#8 ∧ rev8 0b11110000#8 = 0b00001111#8

/-- R121: two keys that differ only in the parity bits (bit 0 of each prepared key byte, so bit 7 of each byte as
written when KR = 1) give the same DES_OUT, whatever the block, and no key is rejected. -/
def Obligations.ParityBitsAreIgnored : Prop :=
  ∀ (kr : Bool) (s : State) (key : Bytes8),
    (∀ i : Fin 8, s.desKey.get i &&& (if kr then 0x7F#8 else 0xFE#8) = key.get i &&& (if kr then 0x7F#8 else 0xFE#8)) →
    ∃ t u, exec (.desEnc kr) s = .next t ∧ exec (.desEnc kr) { s with desKey := key } = .next u ∧
      t.desOut = u.desOut ∧ t.err = false ∧ u.err = false

/-- R123: DES_OUT is a function of (DES_KEY, DES_IN, KR) alone, and for the all-zero key and block it is
8C A6 4D E9 C1 B1 23 A7 with KR either way. -/
def Obligations.DesEncIsDeterministic : Prop :=
  (∀ (kr : Bool) (s s' : State), s.desKey = s'.desKey → s.desIn = s'.desIn →
    ∃ t t', exec (.desEnc kr) s = .next t ∧ exec (.desEnc kr) s' = .next t' ∧ t.desOut = t'.desOut) ∧
  ∀ (kr : Bool) (s : State), s.desKey = #v[0, 0, 0, 0, 0, 0, 0, 0] → s.desIn = #v[0, 0, 0, 0, 0, 0, 0, 0] →
    ∃ t, exec (.desEnc kr) s = .next t ∧ t.desOut = #v[0x8C, 0xA6, 0x4D, 0xE9, 0xC1, 0xB1, 0x23, 0xA7]

/-- R124: the integrity checks on the tables. -/
def Obligations.TableIntegrity : Prop :=
  (pc1.length = 56 ∧ pc1.Nodup ∧ ∀ x ∈ pc1, x % 8 ≠ 0) ∧
    (pc2.length = 48 ∧ pc2.Nodup ∧ (∀ x ∈ pc2, 1 ≤ x ∧ x ≤ 56) ∧
      ∀ x, 1 ≤ x → x ≤ 56 → (x ∉ pc2 ↔ x ∈ [9, 18, 22, 25, 35, 38, 43, 54])) ∧
    ipTable.Perm ((List.range 64).map (· + 1)) ∧ fpTable.Perm ((List.range 64).map (· + 1)) ∧
    (∀ i, 1 ≤ i → i ≤ 64 → fpTable.getD (ipTable.getD (i - 1) 0 - 1) 0 = i ∧
      ipTable.getD (fpTable.getD (i - 1) 0 - 1) 0 = i) ∧
    (eTable.length = 48 ∧ (∀ x ∈ eTable, 1 ≤ x ∧ x ≤ 32) ∧
      ∀ r < 8, ∀ j < 6, eTable.getD (6 * r + j) 0 = (4 * r + j + 31) % 32 + 1) ∧
    pTable.Perm ((List.range 32).map (· + 1)) ∧
    sboxes.length = 8 ∧ ∀ b ∈ sboxes, b.length = 64 ∧ ∀ r < 4, ((b.drop (16 * r)).take 16).Perm (List.range 16)

/-! ## MX -/

/-- R10, R134: natlen(v) is the least n with v < 256^n, and natlen(0) = 0. -/
def Obligations.NatlenIsLeast : Prop :=
  natlen 0 = 0 ∧ ∀ v : Nat, v < 256 ^ natlen v ∧ ∀ n, v < 256 ^ n → natlen v ≤ n

/-- R132, R131: to_bytes_be gives max(min_len, natlen(v)) big-endian bytes of v, with no leading zero byte unless
min_len asks for it; and writing back the bytes of a number at their length gives them again. -/
def Obligations.ToBytesBeRoundTrip : Prop :=
  (∀ v n : Nat, (toBytesBe v n).length = max n (natlen v) ∧ natOf (toBytesBe v n) = v) ∧
    (∀ v : Nat, v ≠ 0 → (toBytesBe v 0).head? ≠ some 0) ∧
    ∀ bs : List Byte, toBytesBe (natOf bs) bs.length = bs

/-- R141: what mod_pow returns, case by case. -/
def Obligations.ModPowByCases : Prop :=
  ∀ base exp : Nat, modPow base exp 0 = 1 ∧ modPow base 0 1 = 1 ∧ (1 ≤ exp → modPow base exp 1 = 0) ∧
    ∀ m, 2 ≤ m → modPow base 0 m = 1 ∧ (1 ≤ exp → modPow base exp m = base ^ exp % m)

/-- R143: MX.MODPOW leaves base^exp mod m (by the table of R141) as big-endian bytes. -/
def Obligations.ModpowWritesThePower : Prop :=
  ∀ s : State, s.params.wf = true → s.mxAlen.toNat ≤ s.params.mxSize → s.mxBlen.toNat ≤ s.params.mxSize →
    s.mxMlen.toNat ≤ s.params.mxSize → ResultFits s (powerTable (operandA s) (operandB s) (operandM s)) →
    ∃ t, exec .mxModpow s = .next t ∧ WroteNumber s t (powerTable (operandA s) (operandB s) (operandM s))

/-- R144: MX.MOD leaves A mod M; B and MX_BLEN play no part. -/
def Obligations.ModWritesTheRemainder : Prop :=
  ∀ s : State, s.params.wf = true → s.mxAlen.toNat ≤ s.params.mxSize → s.mxMlen.toNat ≤ s.params.mxSize →
    operandM s ≠ 0 → ResultFits s (operandA s % operandM s) →
    ∃ t, exec .mxMod s = .next t ∧ WroteNumber s t (operandA s % operandM s)

/-- R145: MX.MUL leaves the exact product A * B, which always fits but for a large MX_MINLEN. -/
def Obligations.MulWritesTheProduct : Prop :=
  ∀ s : State, s.params.wf = true → s.mxAlen.toNat ≤ s.params.mxSize → s.mxBlen.toNat ≤ s.params.mxSize →
    s.mxMinlen.toNat ≤ 2 * s.params.mxSize →
    ∃ t, exec .mxMul s = .next t ∧ WroteNumber s t (operandA s * operandB s)

/-! ## Errors -/

/-- R244, R161: ERR_PIXFMT comes exactly from an illegal format, in the four commands that convert pixels, before any
other check. -/
def Obligations.PixelFormatErrorsExactly : Prop :=
  ∀ (i : Instr) (s : State), ∃ t, exec i s = .next t ∧ (t.errcode = 3 ↔ ConvertsPixels i ∧ IllegalFormat s) ∧
    (t.errcode = 3 → t.errinfo = 0 ∧ t.err = true)

/-- R245 with R249: exactly the cases of ERR_CAPACITY, after the format check and, for MX.MOD, with the zero modulus
between the operand lengths and the result length. -/
def Obligations.CapacityErrorsExactly : Prop :=
  ∀ s : State,
    (∃ t, exec .pxConv s = .next t ∧ (t.errcode = 4 ↔ ¬IllegalFormat s ∧
      (s.params.inSize < s.inLen.toNat ∨ s.params.outSize < 4 * (s.inLen.toNat / bytesPerPixel s)))) ∧
    (∀ i ∈ [Instr.decRaw, .decRre, .decHextile], ∃ t, exec i s = .next t ∧ (t.errcode = 4 ↔ ¬IllegalFormat s ∧
      (s.params.inSize < s.inLen.toNat ∨ s.params.outSize < s.rectWidth * s.rectHeight * 4))) ∧
    (∃ t, exec .decCopyrect s = .next t ∧ (t.errcode = 4 ↔ s.params.inSize < s.inLen.toNat)) ∧
    (∃ t, exec .mxModpow s = .next t ∧ (t.errcode = 4 ↔
      s.params.mxSize < s.mxAlen.toNat ∨ s.params.mxSize < s.mxBlen.toNat ∨ s.params.mxSize < s.mxMlen.toNat ∨
        ¬ResultFits s (powerTable (operandA s) (operandB s) (operandM s)))) ∧
    (∃ t, exec .mxMod s = .next t ∧ (t.errcode = 4 ↔
      s.params.mxSize < s.mxAlen.toNat ∨ s.params.mxSize < s.mxMlen.toNat ∨
        (operandM s ≠ 0 ∧ ¬ResultFits s (operandA s % operandM s)))) ∧
    (∃ t, exec .mxMul s = .next t ∧ (t.errcode = 4 ↔
      s.params.mxSize < s.mxAlen.toNat ∨ s.params.mxSize < s.mxBlen.toNat ∨
        ¬ResultFits s (operandA s * operandB s))) ∧
    ∀ i ∈ [Instr.nop, .clear, .desEnc false, .desEnc true], ∃ t, exec i s = .next t ∧ t.errcode = 0

/-- R246: ERR_DIVZERO comes exactly from MX.MOD with a zero modulus (its operand lengths being legal, R249);
MX.MODPOW with a zero modulus returns 1. -/
def Obligations.ZeroModulus : Prop :=
  (∀ (i : Instr) (s : State), ∃ t, exec i s = .next t ∧ (t.errcode = 5 ↔
    i = .mxMod ∧ s.mxAlen.toNat ≤ s.params.mxSize ∧ s.mxMlen.toNat ≤ s.params.mxSize ∧ operandM s = 0)) ∧
  ∀ s : State, s.params.wf = true → s.mxAlen.toNat ≤ s.params.mxSize → s.mxBlen.toNat ≤ s.params.mxSize →
    s.mxMlen.toNat ≤ s.params.mxSize → operandM s = 0 → s.mxMinlen.toNat ≤ 2 * s.params.mxSize →
    ∃ t, exec .mxModpow s = .next t ∧ WroteNumber s t 1

/-- R243 with R249: ERR_PROTOCOL of PX.CONV, DEC.RAW, DEC.COPYRECT and DEC.RRE: exactly the short payloads, with the
ERRINFO stated for each; and no other command but DEC.HEXTILE (HextileTruncationIsAnError) raises it. -/
def Obligations.ProtocolErrorsExactly : Prop :=
  ∀ s : State,
    (∃ t, exec .pxConv s = .next t ∧
      (t.errcode = 2 ↔ ¬IllegalFormat s ∧ s.inLen.toNat ≤ s.params.inSize ∧
        4 * (s.inLen.toNat / bytesPerPixel s) ≤ s.params.outSize ∧ s.inLen.toNat % bytesPerPixel s ≠ 0) ∧
      (t.errcode = 2 → t.errinfo.toNat = s.inLen.toNat / bytesPerPixel s * bytesPerPixel s)) ∧
    (∃ t, exec .decRaw s = .next t ∧
      (t.errcode = 2 ↔ ¬IllegalFormat s ∧ s.inLen.toNat ≤ s.params.inSize ∧
        s.rectWidth * s.rectHeight * 4 ≤ s.params.outSize ∧
        s.inLen.toNat < s.rectWidth * s.rectHeight * bytesPerPixel s) ∧
      (t.errcode = 2 → t.errinfo = 0)) ∧
    (∃ t, exec .decCopyrect s = .next t ∧
      (t.errcode = 2 ↔ s.inLen.toNat ≤ s.params.inSize ∧ s.inLen.toNat < 4) ∧ (t.errcode = 2 → t.errinfo = 0)) ∧
    (∃ t, exec .decRre s = .next t ∧
      (t.errcode = 2 ↔ ¬IllegalFormat s ∧ s.inLen.toNat ≤ s.params.inSize ∧
        s.rectWidth * s.rectHeight * 4 ≤ s.params.outSize ∧ s.inLen.toNat < 4 + bytesPerPixel s) ∧
      (t.errcode = 2 → t.errinfo = if s.inLen.toNat < 4 then 0 else 4)) ∧
    ∀ i ∈ [Instr.nop, .clear, .desEnc false, .desEnc true, .mxModpow, .mxMod, .mxMul],
      ∃ t, exec i s = .next t ∧ t.errcode ≠ 2

/-! ## PX and DEC -/

/-- R169 with R160 to R165, R168, R171: PX.CONV converts every pixel of IN by the channel formula. -/
def Obligations.PxConvConvertsEveryPixel : Prop :=
  ∀ s : State, s.params.wf = true → ¬IllegalFormat s → s.inLen.toNat ≤ s.params.inSize →
    s.inLen.toNat % bytesPerPixel s = 0 → 4 * (s.inLen.toNat / bytesPerPixel s) ≤ s.params.outSize →
    ∃ t, exec .pxConv s = .next t ∧ WrotePixels s t (s.inLen.toNat / bytesPerPixel s) ∧
      ∀ k < s.inLen.toNat / bytesPerPixel s, IsPixelAt s (k * bytesPerPixel s) (outPixel t k)

/-- R184 with R180, R183: DEC.RAW converts the W*H pixels in row-major order; surplus input plays no part. -/
def Obligations.RawConvertsRowMajor : Prop :=
  ∀ s : State, s.params.wf = true → ¬IllegalFormat s → s.inLen.toNat ≤ s.params.inSize →
    s.rectWidth * s.rectHeight * 4 ≤ s.params.outSize →
    s.rectWidth * s.rectHeight * bytesPerPixel s ≤ s.inLen.toNat →
    ∃ t, exec .decRaw s = .next t ∧ WrotePixels s t (s.rectWidth * s.rectHeight) ∧
      ∀ row < s.rectHeight, ∀ col < s.rectWidth,
        IsPixelAt s ((row * s.rectWidth + col) * bytesPerPixel s) (outPixel t (row * s.rectWidth + col))

/-- R185: DEC.COPYRECT takes the two big-endian coordinates from IN[0..4) and writes SRC_X and SRC_Y only; a short
payload is ERR_PROTOCOL with both unchanged. -/
def Obligations.CopyrectReadsTheSource : Prop :=
  ∀ s : State,
    (s.inLen.toNat ≤ s.params.inSize → 4 ≤ s.inLen.toNat →
      ∃ t, exec .decCopyrect s = .next t ∧ CompletedOk s t ∧
        t.srcX.toNat = 256 * inByte s 0 + inByte s 1 ∧ t.srcY.toNat = 256 * inByte s 2 + inByte s 3 ∧
        t = { s with srcX := t.srcX, srcY := t.srcY, status := t.status, errcode := 0, errinfo := 0 }) ∧
    (s.inLen.toNat ≤ s.params.inSize → s.inLen.toNat < 4 →
      exec .decCopyrect s = .next (s.completeErr ⟨.protocol, 0⟩)) ∧
    (s.params.inSize < s.inLen.toNat → exec .decCopyrect s = .next (s.completeErr ⟨.capacity, 0⟩))

/-- R187 with R186, R188, R189: a payload with its header completes OK, and every pixel has the colour of the last
applied record that covers it, or the background where none does; records that are not wholly there are not applied,
and what reaches outside the rectangle is clipped. -/
def Obligations.RreLastCoveringRecordWins : Prop :=
  ∀ s : State, s.params.wf = true → ¬IllegalFormat s → s.inLen.toNat ≤ s.params.inSize →
    s.rectWidth * s.rectHeight * 4 ≤ s.params.outSize → 4 + bytesPerPixel s ≤ s.inLen.toNat →
    ∃ t, exec .decRre s = .next t ∧ WrotePixels s t (s.rectWidth * s.rectHeight) ∧
      ∀ row < s.rectHeight, ∀ col < s.rectWidth,
        (∀ r < rreApplied s, RreCovers s r col row →
          (∀ q, r < q → q < rreApplied s → ¬RreCovers s q col row) →
          IsPixelAt s (rreOffset s r) (outPixel t (row * s.rectWidth + col))) ∧
        ((∀ r < rreApplied s, ¬RreCovers s r col row) →
          IsPixelAt s 4 (outPixel t (row * s.rectWidth + col)))

/-- R191: empty rectangles: DEC.RAW and DEC.HEXTILE complete OK with OUT_LEN = 0 for any IN_LEN, DEC.RRE needs its
header of 4 + bpp bytes and then does the same (a legal format and IN_LEN within IN_SIZE given). -/
def Obligations.EmptyRectangles : Prop :=
  ∀ s : State, s.params.wf = true → ¬IllegalFormat s → s.inLen.toNat ≤ s.params.inSize →
    (s.rectWidth = 0 ∨ s.rectHeight = 0) →
    (∃ t, exec .decRaw s = .next t ∧ WrotePixels s t 0) ∧
    (∃ t, exec .decHextile s = .next t ∧ WrotePixels s t 0) ∧
    (4 + bytesPerPixel s ≤ s.inLen.toNat → ∃ t, exec .decRre s = .next t ∧ WrotePixels s t 0) ∧
    (s.inLen.toNat < 4 + bytesPerPixel s → ∃ t, exec .decRre s = .next t ∧ t.errcode = 2)

/-- R213, R218, R219: a tile with the RAW bit set, whatever the other bits of its flag byte and wherever it stands,
holds its pixels row-major within the tile; it leaves the cursor behind them and both running colours as they were.
For a rectangle of one tile, in the spec's own formulas, DEC.HEXTILE commits them. -/
def Obligations.HextileRawTile : Prop :=
  (∀ (f : PixelFormat) (bs : List Byte) (w h : Nat) (st : HexState) (tx ty : Nat), tileFlag bs st.cur 0 = true →
    st.cur + 1 + tileExtent w tx * tileExtent h ty * f.bpp ≤ bs.length →
    ∃ st', hexTile f bs w h st (tx, ty) = .ok st' ∧
      TileLeaves st' (st.cur + 1 + tileExtent w tx * tileExtent h ty * f.bpp) st.bg st.fg ∧
      ∀ i < tileExtent w tx, ∀ j < tileExtent h ty,
        st'.px (tx + i) (ty + j) = pixAt f bs (st.cur + 1 + (j * tileExtent w tx + i) * f.bpp)) ∧
  ∀ s : State, s.params.wf = true → ¬IllegalFormat s → s.inLen.toNat ≤ s.params.inSize →
    s.rectWidth * s.rectHeight * 4 ≤ s.params.outSize → 0 < s.rectWidth → s.rectWidth ≤ 16 →
    0 < s.rectHeight → s.rectHeight ≤ 16 → (s.bufByte .inp 0).getLsbD 0 = true →
    1 + s.rectWidth * s.rectHeight * bytesPerPixel s ≤ s.inLen.toNat →
    ∃ t, exec .decHextile s = .next t ∧ WrotePixels s t (s.rectWidth * s.rectHeight) ∧
      ∀ row < s.rectHeight, ∀ col < s.rectWidth,
        IsPixelAt s (1 + (row * s.rectWidth + col) * bytesPerPixel s) (outPixel t (row * s.rectWidth + col))

/-- R221: for W <= 16 and H <= 16, DEC.HEXTILE on the payload 01 ‖ D gives the OUT and OUT_LEN that DEC.RAW gives on
D, under the same pixel format. -/
def Obligations.HextileSingleRawTileIsRaw : Prop :=
  ∀ s h : State, s.params.wf = true → h.params = s.params → h.pfCtrl = s.pfCtrl → h.pfRmax = s.pfRmax →
    h.pfGmax = s.pfGmax → h.pfBmax = s.pfBmax → h.pfShift = s.pfShift → h.rectW = s.rectW → h.rectH = s.rectH →
    s.rectWidth ≤ 16 → s.rectHeight ≤ 16 → h.inLen.toNat = s.inLen.toNat + 1 → h.inLen.toNat ≤ s.params.inSize →
    s.rectWidth * s.rectHeight * 4 ≤ s.params.outSize → ¬IllegalFormat s →
    s.rectWidth * s.rectHeight * bytesPerPixel s ≤ s.inLen.toNat →
    h.bufByte .inp 0 = 0x01#8 → (∀ i < s.inLen.toNat, h.bufByte .inp (i + 1) = s.bufByte .inp i) →
    ∃ t u, exec .decRaw s = .next t ∧ exec .decHextile h = .next u ∧ t.err = false ∧ u.err = false ∧
      u.outLen = t.outLen ∧ ∀ i < t.outLen.toNat, u.bufByte .out i = t.bufByte .out i

/-- R212, R214, R218, R219: a tile with neither RAW nor ANY_SUBRECTS, wherever it stands, is filled with the background
in force and leaves the cursor behind its optional colours. With every flag byte 0x00, one for each of the
ceil(W/16)*ceil(H/16) tiles (R210), every pixel of the rectangle is the initial background, and nothing else is
read. -/
def Obligations.HextileUnflaggedTilesAreBackground : Prop :=
  (∀ (f : PixelFormat) (bs : List Byte) (w h : Nat) (st : HexState) (tx ty : Nat), tileFlag bs st.cur 0 = false →
    tileFlag bs st.cur 3 = false → tileCountAt f bs st.cur ≤ bs.length →
    ∃ st', hexTile f bs w h st (tx, ty) = .ok st' ∧
      TileLeaves st' (tileCountAt f bs st.cur) (tileBg f bs st) (tileFg f bs st) ∧
      ∀ i < tileExtent w tx, ∀ j < tileExtent h ty, st'.px (tx + i) (ty + j) = tileBg f bs st) ∧
  ∀ s : State, s.params.wf = true → ¬IllegalFormat s → s.inLen.toNat ≤ s.params.inSize →
    s.rectWidth * s.rectHeight * 4 ≤ s.params.outSize →
    (s.rectWidth + 15) / 16 * ((s.rectHeight + 15) / 16) ≤ s.inLen.toNat →
    (∀ i < (s.rectWidth + 15) / 16 * ((s.rectHeight + 15) / 16), s.bufByte .inp i = 0x00#8) →
    ∃ t, exec .decHextile s = .next t ∧ WrotePixels s t (s.rectWidth * s.rectHeight) ∧
      ∀ k < s.rectWidth * s.rectHeight, outPixel t k = s.params.hxInitBg

/-- R212, R214, R215, R216, R219: a tile with ANY_SUBRECTS and without RAW and SUBRECTS_COLOURED, whatever its other
flags and wherever it stands: every tile pixel that a subrectangle covers has the foreground in force, every other one
the background, and the cursor is left behind the subrectangles. For a rectangle of one tile with the flags
BG_SPECIFIED, FG_SPECIFIED and ANY_SUBRECTS, in the spec's own formulas, DEC.HEXTILE commits this. -/
def Obligations.HextileForegroundSubrectangles : Prop :=
  (∀ (f : PixelFormat) (bs : List Byte) (w h : Nat) (st : HexState) (tx ty : Nat), tileFlag bs st.cur 0 = false →
    tileFlag bs st.cur 3 = true → tileFlag bs st.cur 4 = false →
    tileSubAt f bs st.cur (tileCount f bs st.cur) ≤ bs.length →
    ∃ st', hexTile f bs w h st (tx, ty) = .ok st' ∧
      TileLeaves st' (tileSubAt f bs st.cur (tileCount f bs st.cur)) (tileBg f bs st) (tileFg f bs st) ∧
      ∀ i < tileExtent w tx, ∀ j < tileExtent h ty,
        ((∃ q < tileCount f bs st.cur, TileCovers bs (tileXyAt f bs st.cur q) i j) →
          st'.px (tx + i) (ty + j) = tileFg f bs st) ∧
        ((∀ q < tileCount f bs st.cur, ¬TileCovers bs (tileXyAt f bs st.cur q) i j) →
          st'.px (tx + i) (ty + j) = tileBg f bs st)) ∧
  ∀ s : State, s.params.wf = true → ¬IllegalFormat s → s.inLen.toNat ≤ s.params.inSize →
    s.rectWidth * s.rectHeight * 4 ≤ s.params.outSize → 0 < s.rectWidth → s.rectWidth ≤ 16 →
    0 < s.rectHeight → s.rectHeight ≤ 16 → s.bufByte .inp 0 = 0x0E#8 →
    2 + 2 * bytesPerPixel s ≤ s.inLen.toNat →
    2 + 2 * bytesPerPixel s + 2 * inByte s (1 + 2 * bytesPerPixel s) ≤ s.inLen.toNat →
    ∃ t, exec .decHextile s = .next t ∧ WrotePixels s t (s.rectWidth * s.rectHeight) ∧
      ∀ row < s.rectHeight, ∀ col < s.rectWidth,
        ((∃ q < inByte s (1 + 2 * bytesPerPixel s), HexCovers s (2 + 2 * bytesPerPixel s + 2 * q) col row) →
          IsPixelAt s (1 + bytesPerPixel s) (outPixel t (row * s.rectWidth + col))) ∧
        ((∀ q < inByte s (1 + 2 * bytesPerPixel s), ¬HexCovers s (2 + 2 * bytesPerPixel s + 2 * q) col row) →
          IsPixelAt s 1 (outPixel t (row * s.rectWidth + col)))

/-- R212, R214, R215, R216, R218, R219: a tile with ANY_SUBRECTS and SUBRECTS_COLOURED and without RAW, whatever its
other flags and wherever it stands: every tile pixel has the colour of the last subrectangle that covers it, or the
background in force where none does; the cursor is left behind the subrectangles, and a foreground it specifies is
remembered. For a rectangle of one tile with the flags BG_SPECIFIED, ANY_SUBRECTS and SUBRECTS_COLOURED, in the spec's
own formulas, DEC.HEXTILE commits this. -/
def Obligations.HextileColouredSubrectangles : Prop :=
  (∀ (f : PixelFormat) (bs : List Byte) (w h : Nat) (st : HexState) (tx ty : Nat), tileFlag bs st.cur 0 = false →
    tileFlag bs st.cur 3 = true → tileFlag bs st.cur 4 = true →
    tileSubAt f bs st.cur (tileCount f bs st.cur) ≤ bs.length →
    ∃ st', hexTile f bs w h st (tx, ty) = .ok st' ∧
      TileLeaves st' (tileSubAt f bs st.cur (tileCount f bs st.cur)) (tileBg f bs st) (tileFg f bs st) ∧
      ∀ i < tileExtent w tx, ∀ j < tileExtent h ty,
        (∀ q < tileCount f bs st.cur, TileCovers bs (tileXyAt f bs st.cur q) i j →
          (∀ p, q < p → p < tileCount f bs st.cur → ¬TileCovers bs (tileXyAt f bs st.cur p) i j) →
          st'.px (tx + i) (ty + j) = pixAt f bs (tileSubAt f bs st.cur q)) ∧
        ((∀ q < tileCount f bs st.cur, ¬TileCovers bs (tileXyAt f bs st.cur q) i j) →
          st'.px (tx + i) (ty + j) = tileBg f bs st)) ∧
  ∀ s : State, s.params.wf = true → ¬IllegalFormat s → s.inLen.toNat ≤ s.params.inSize →
    s.rectWidth * s.rectHeight * 4 ≤ s.params.outSize → 0 < s.rectWidth → s.rectWidth ≤ 16 →
    0 < s.rectHeight → s.rectHeight ≤ 16 → s.bufByte .inp 0 = 0x1A#8 → 2 + bytesPerPixel s ≤ s.inLen.toNat →
    hexOffset s (inByte s (1 + bytesPerPixel s)) ≤ s.inLen.toNat →
    ∃ t, exec .decHextile s = .next t ∧ WrotePixels s t (s.rectWidth * s.rectHeight) ∧
      ∀ row < s.rectHeight, ∀ col < s.rectWidth,
        (∀ q < inByte s (1 + bytesPerPixel s), HexCovers s (hexOffset s q + bytesPerPixel s) col row →
          (∀ p, q < p → p < inByte s (1 + bytesPerPixel s) →
            ¬HexCovers s (hexOffset s p + bytesPerPixel s) col row) →
          IsPixelAt s (hexOffset s q) (outPixel t (row * s.rectWidth + col))) ∧
        ((∀ q < inByte s (1 + bytesPerPixel s), ¬HexCovers s (hexOffset s q + bytesPerPixel s) col row) →
          IsPixelAt s 1 (outPixel t (row * s.rectWidth + col)))

/-- R212 with R213 and R214: what a decoded tile leaves as the running colours for the next one: a RAW tile changes
neither; any other takes the background it specifies, and the foreground it specifies from behind that background, and
keeps what it does not specify; a subrectangle's own colour changes none (R215). -/
def Obligations.HextileRunningColours : Prop :=
  ∀ (f : PixelFormat) (bs : List Byte) (w h : Nat) (st st' : HexState) (origin : Nat × Nat),
    hexTile f bs w h st origin = .ok st' →
    ((byteAt bs st.cur).getLsbD 0 = true → st'.bg = st.bg ∧ st'.fg = st.fg) ∧
    ((byteAt bs st.cur).getLsbD 0 = false →
      st'.bg = (if (byteAt bs st.cur).getLsbD 1 then pixAt f bs (st.cur + 1) else st.bg) ∧
      st'.fg = (if (byteAt bs st.cur).getLsbD 2 then
        pixAt f bs (st.cur + 1 + if (byteAt bs st.cur).getLsbD 1 then f.bpp else 0) else st.fg))

/-- R210, R216: the tiles are the ceil(W/16)*ceil(H/16) ones of the rectangle in raster order, left to right and then
top to bottom; and a tile paints no pixel outside itself, whatever its flags and subrectangles. -/
def Obligations.HextileTileStaysInside : Prop :=
  (∀ w h : Nat, (tileOrigins w h).length = (w + 15) / 16 * ((h + 15) / 16) ∧
    ∀ k < (w + 15) / 16 * ((h + 15) / 16),
      (tileOrigins w h)[k]? = some (16 * (k % ((w + 15) / 16)), 16 * (k / ((w + 15) / 16)))) ∧
  ∀ (f : PixelFormat) (bs : List Byte) (w h : Nat) (st st' : HexState) (tx ty : Nat),
    hexTile f bs w h st (tx, ty) = .ok st' →
    ∀ col row, ¬(tx ≤ col ∧ col < tx + tileExtent w tx ∧ ty ≤ row ∧ row < ty + tileExtent h ty) →
      st'.px col row = st.px col row

/-- R180, R210, R219: the tiles partition the rectangle and every tile assigns all its pixels: the pixels of a
successful decoding do not depend on what the array held before. And DEC.HEXTILE commits the pixels that its tiles,
decoded in order from the initial colours, leave in whatever array. -/
def Obligations.HextileAssignsEveryPixel : Prop :=
  (∀ (f : PixelFormat) (bs : List Byte) (w h : Nat) (st st' u u' : HexState),
    u.cur = st.cur → u.bg = st.bg → u.fg = st.fg →
    (tileOrigins w h).foldlM (hexTile f bs w h) st = .ok st' →
    (tileOrigins w h).foldlM (hexTile f bs w h) u = .ok u' →
    ∀ col < w, ∀ row < h, u'.px col row = st'.px col row) ∧
  ∀ (s : State) (px : Canvas) (st' : HexState), s.params.wf = true → ¬IllegalFormat s →
    s.inLen.toNat ≤ s.params.inSize → s.rectWidth * s.rectHeight * 4 ≤ s.params.outSize →
    hexTiles s (tileOrigins s.rectWidth s.rectHeight).length (hexStart s px) = .ok st' →
    ∃ t, exec .decHextile s = .next t ∧ WrotePixels s t (s.rectWidth * s.rectHeight) ∧
      ∀ row < s.rectHeight, ∀ col < s.rectWidth, outPixel t (row * s.rectWidth + col) = st'.px col row

/-- R217 with R181, R219 and the DEC.HEXTILE case of R243: for every tile and flag byte, the tile decodes exactly when
every one of its guarded reads fits, and else ends in ERR_PROTOCOL with the cursor of the first that does not: the
subrectangle loop never stops early. So the command completes with that error of the first tile that has one, with
nothing committed, and completes OK when there is none. The last clauses say two cases in the spec's own formulas: a
missing first flag byte, and a short RAW first tile. -/
def Obligations.HextileTruncationIsAnError : Prop :=
  (∀ (f : PixelFormat) (bs : List Byte) (w h : Nat) (st : HexState) (tx ty : Nat),
    (∀ r, firstShort bs (tileReads f bs st.cur (tileExtent w tx * tileExtent h ty)) = some r →
      hexTile f bs w h st (tx, ty) = .error ⟨.protocol, BitVec.ofNat 32 r.1⟩) ∧
    (firstShort bs (tileReads f bs st.cur (tileExtent w tx * tileExtent h ty)) = none →
      ∃ st', hexTile f bs w h st (tx, ty) = .ok st')) ∧
  ∀ s : State, ¬IllegalFormat s → s.inLen.toNat ≤ s.params.inSize →
    s.rectWidth * s.rectHeight * 4 ≤ s.params.outSize →
    (∀ k tx ty r, ShortTile s k tx ty r →
      exec .decHextile s = .next (s.completeErr ⟨.protocol, BitVec.ofNat 32 r.1⟩)) ∧
    (s.params.wf = true → (∀ k tx ty r, ¬ShortTile s k tx ty r) →
      ∃ t, exec .decHextile s = .next t ∧ WrotePixels s t (s.rectWidth * s.rectHeight)) ∧
    (0 < s.rectWidth → 0 < s.rectHeight →
      (s.inLen = 0 → exec .decHextile s = .next (s.completeErr ⟨.protocol, 0⟩)) ∧
      (0 < s.inLen.toNat → (s.bufByte .inp 0).getLsbD 0 = true →
        s.inLen.toNat < 1 + min 16 s.rectWidth * min 16 s.rectHeight * bytesPerPixel s →
        exec .decHextile s = .next (s.completeErr ⟨.protocol, 1⟩)))

/-- R166, R190, R95: PF_CTRL.DEPTH, RECT_X and RECT_Y have no effect on any command: two states that differ in nothing
else get the same results. -/
def Obligations.DepthAndPositionHaveNoEffect : Prop :=
  ∀ (i : Instr) (s : State) (pf x y : Word) (t u : State), i ≠ .clear → pf &&& 0xFF00FFFF#32 = s.pfCtrl &&& 0xFF00FFFF#32 →
    exec i s = .next t → exec i { s with pfCtrl := pf, rectX := x, rectY := y } = .next u →
    u = { t with pfCtrl := pf, rectX := x, rectY := y }
end

