-- ==== Sys2Proof/Laws/State.lean ====
section
/-! SUPPORT. One lemma per field per named update of the state, true by rfl, so that no later proof unfolds a record
update; and the flags of the status words. -/

namespace Sys2Proof.Machine

/-! ## `State.acceptCommand` -/

@[simp] theorem State.acceptCommand_status (s : State) (c : Word) : (s.acceptCommand c).status = statusWord true false false s.ovr := rfl
@[simp] theorem State.acceptCommand_errcode (s : State) (c : Word) : (s.acceptCommand c).errcode = 0 := rfl
@[simp] theorem State.acceptCommand_errinfo (s : State) (c : Word) : (s.acceptCommand c).errinfo = 0 := rfl
@[simp] theorem State.acceptCommand_ctrl (s : State) (c : Word) : (s.acceptCommand c).ctrl = s.ctrl := rfl
@[simp] theorem State.acceptCommand_inLen (s : State) (c : Word) : (s.acceptCommand c).inLen = s.inLen := rfl
@[simp] theorem State.acceptCommand_outLen (s : State) (c : Word) : (s.acceptCommand c).outLen = s.outLen := rfl
@[simp] theorem State.acceptCommand_rectX (s : State) (c : Word) : (s.acceptCommand c).rectX = s.rectX := rfl
@[simp] theorem State.acceptCommand_rectY (s : State) (c : Word) : (s.acceptCommand c).rectY = s.rectY := rfl
@[simp] theorem State.acceptCommand_rectW (s : State) (c : Word) : (s.acceptCommand c).rectW = s.rectW := rfl
@[simp] theorem State.acceptCommand_rectH (s : State) (c : Word) : (s.acceptCommand c).rectH = s.rectH := rfl
@[simp] theorem State.acceptCommand_srcX (s : State) (c : Word) : (s.acceptCommand c).srcX = s.srcX := rfl
@[simp] theorem State.acceptCommand_srcY (s : State) (c : Word) : (s.acceptCommand c).srcY = s.srcY := rfl
@[simp] theorem State.acceptCommand_desKey (s : State) (c : Word) : (s.acceptCommand c).desKey = s.desKey := rfl
@[simp] theorem State.acceptCommand_desIn (s : State) (c : Word) : (s.acceptCommand c).desIn = s.desIn := rfl
@[simp] theorem State.acceptCommand_desOut (s : State) (c : Word) : (s.acceptCommand c).desOut = s.desOut := rfl
@[simp] theorem State.acceptCommand_pfCtrl (s : State) (c : Word) : (s.acceptCommand c).pfCtrl = s.pfCtrl := rfl
@[simp] theorem State.acceptCommand_pfRmax (s : State) (c : Word) : (s.acceptCommand c).pfRmax = s.pfRmax := rfl
@[simp] theorem State.acceptCommand_pfGmax (s : State) (c : Word) : (s.acceptCommand c).pfGmax = s.pfGmax := rfl
@[simp] theorem State.acceptCommand_pfBmax (s : State) (c : Word) : (s.acceptCommand c).pfBmax = s.pfBmax := rfl
@[simp] theorem State.acceptCommand_pfShift (s : State) (c : Word) : (s.acceptCommand c).pfShift = s.pfShift := rfl
@[simp] theorem State.acceptCommand_mxAlen (s : State) (c : Word) : (s.acceptCommand c).mxAlen = s.mxAlen := rfl
@[simp] theorem State.acceptCommand_mxBlen (s : State) (c : Word) : (s.acceptCommand c).mxBlen = s.mxBlen := rfl
@[simp] theorem State.acceptCommand_mxMlen (s : State) (c : Word) : (s.acceptCommand c).mxMlen = s.mxMlen := rfl
@[simp] theorem State.acceptCommand_mxMinlen (s : State) (c : Word) : (s.acceptCommand c).mxMinlen = s.mxMinlen := rfl
@[simp] theorem State.acceptCommand_mxRlen (s : State) (c : Word) : (s.acceptCommand c).mxRlen = s.mxRlen := rfl
@[simp] theorem State.acceptCommand_mem (s : State) (c : Word) : (s.acceptCommand c).mem = s.mem := rfl
@[simp] theorem State.acceptCommand_pend (s : State) (c : Word) : (s.acceptCommand c).pend = c := rfl
@[simp] theorem State.acceptCommand_params (s : State) (c : Word) : (s.acceptCommand c).params = s.params := rfl
@[simp] theorem State.acceptCommand_resp (s : State) (c : Word) : (s.acceptCommand c).resp = s.resp := rfl
@[simp] theorem State.acceptCommand_sched (s : State) (c : Word) : (s.acceptCommand c).sched = s.sched := rfl

/-! ## `State.completeOk` -/

@[simp] theorem State.completeOk_status (s : State) : s.completeOk.status = statusWord false true false s.ovr := rfl
@[simp] theorem State.completeOk_errcode (s : State) : s.completeOk.errcode = 0 := rfl
@[simp] theorem State.completeOk_errinfo (s : State) : s.completeOk.errinfo = 0 := rfl
@[simp] theorem State.completeOk_ctrl (s : State) : s.completeOk.ctrl = s.ctrl := rfl
@[simp] theorem State.completeOk_inLen (s : State) : s.completeOk.inLen = s.inLen := rfl
@[simp] theorem State.completeOk_outLen (s : State) : s.completeOk.outLen = s.outLen := rfl
@[simp] theorem State.completeOk_rectX (s : State) : s.completeOk.rectX = s.rectX := rfl
@[simp] theorem State.completeOk_rectY (s : State) : s.completeOk.rectY = s.rectY := rfl
@[simp] theorem State.completeOk_rectW (s : State) : s.completeOk.rectW = s.rectW := rfl
@[simp] theorem State.completeOk_rectH (s : State) : s.completeOk.rectH = s.rectH := rfl
@[simp] theorem State.completeOk_srcX (s : State) : s.completeOk.srcX = s.srcX := rfl
@[simp] theorem State.completeOk_srcY (s : State) : s.completeOk.srcY = s.srcY := rfl
@[simp] theorem State.completeOk_desKey (s : State) : s.completeOk.desKey = s.desKey := rfl
@[simp] theorem State.completeOk_desIn (s : State) : s.completeOk.desIn = s.desIn := rfl
@[simp] theorem State.completeOk_desOut (s : State) : s.completeOk.desOut = s.desOut := rfl
@[simp] theorem State.completeOk_pfCtrl (s : State) : s.completeOk.pfCtrl = s.pfCtrl := rfl
@[simp] theorem State.completeOk_pfRmax (s : State) : s.completeOk.pfRmax = s.pfRmax := rfl
@[simp] theorem State.completeOk_pfGmax (s : State) : s.completeOk.pfGmax = s.pfGmax := rfl
@[simp] theorem State.completeOk_pfBmax (s : State) : s.completeOk.pfBmax = s.pfBmax := rfl
@[simp] theorem State.completeOk_pfShift (s : State) : s.completeOk.pfShift = s.pfShift := rfl
@[simp] theorem State.completeOk_mxAlen (s : State) : s.completeOk.mxAlen = s.mxAlen := rfl
@[simp] theorem State.completeOk_mxBlen (s : State) : s.completeOk.mxBlen = s.mxBlen := rfl
@[simp] theorem State.completeOk_mxMlen (s : State) : s.completeOk.mxMlen = s.mxMlen := rfl
@[simp] theorem State.completeOk_mxMinlen (s : State) : s.completeOk.mxMinlen = s.mxMinlen := rfl
@[simp] theorem State.completeOk_mxRlen (s : State) : s.completeOk.mxRlen = s.mxRlen := rfl
@[simp] theorem State.completeOk_mem (s : State) : s.completeOk.mem = s.mem := rfl
@[simp] theorem State.completeOk_pend (s : State) : s.completeOk.pend = s.pend := rfl
@[simp] theorem State.completeOk_params (s : State) : s.completeOk.params = s.params := rfl
@[simp] theorem State.completeOk_resp (s : State) : s.completeOk.resp = s.resp := rfl
@[simp] theorem State.completeOk_sched (s : State) : s.completeOk.sched = s.sched := rfl

/-! ## `State.completeErr` -/

@[simp] theorem State.completeErr_status (s : State) (e : CmdError) : (s.completeErr e).status = statusWord false true true s.ovr := rfl
@[simp] theorem State.completeErr_errcode (s : State) (e : CmdError) : (s.completeErr e).errcode = e.code.toWord := rfl
@[simp] theorem State.completeErr_errinfo (s : State) (e : CmdError) : (s.completeErr e).errinfo = e.info := rfl
@[simp] theorem State.completeErr_ctrl (s : State) (e : CmdError) : (s.completeErr e).ctrl = s.ctrl := rfl
@[simp] theorem State.completeErr_inLen (s : State) (e : CmdError) : (s.completeErr e).inLen = s.inLen := rfl
@[simp] theorem State.completeErr_outLen (s : State) (e : CmdError) : (s.completeErr e).outLen = s.outLen := rfl
@[simp] theorem State.completeErr_rectX (s : State) (e : CmdError) : (s.completeErr e).rectX = s.rectX := rfl
@[simp] theorem State.completeErr_rectY (s : State) (e : CmdError) : (s.completeErr e).rectY = s.rectY := rfl
@[simp] theorem State.completeErr_rectW (s : State) (e : CmdError) : (s.completeErr e).rectW = s.rectW := rfl
@[simp] theorem State.completeErr_rectH (s : State) (e : CmdError) : (s.completeErr e).rectH = s.rectH := rfl
@[simp] theorem State.completeErr_srcX (s : State) (e : CmdError) : (s.completeErr e).srcX = s.srcX := rfl
@[simp] theorem State.completeErr_srcY (s : State) (e : CmdError) : (s.completeErr e).srcY = s.srcY := rfl
@[simp] theorem State.completeErr_desKey (s : State) (e : CmdError) : (s.completeErr e).desKey = s.desKey := rfl
@[simp] theorem State.completeErr_desIn (s : State) (e : CmdError) : (s.completeErr e).desIn = s.desIn := rfl
@[simp] theorem State.completeErr_desOut (s : State) (e : CmdError) : (s.completeErr e).desOut = s.desOut := rfl
@[simp] theorem State.completeErr_pfCtrl (s : State) (e : CmdError) : (s.completeErr e).pfCtrl = s.pfCtrl := rfl
@[simp] theorem State.completeErr_pfRmax (s : State) (e : CmdError) : (s.completeErr e).pfRmax = s.pfRmax := rfl
@[simp] theorem State.completeErr_pfGmax (s : State) (e : CmdError) : (s.completeErr e).pfGmax = s.pfGmax := rfl
@[simp] theorem State.completeErr_pfBmax (s : State) (e : CmdError) : (s.completeErr e).pfBmax = s.pfBmax := rfl
@[simp] theorem State.completeErr_pfShift (s : State) (e : CmdError) : (s.completeErr e).pfShift = s.pfShift := rfl
@[simp] theorem State.completeErr_mxAlen (s : State) (e : CmdError) : (s.completeErr e).mxAlen = s.mxAlen := rfl
@[simp] theorem State.completeErr_mxBlen (s : State) (e : CmdError) : (s.completeErr e).mxBlen = s.mxBlen := rfl
@[simp] theorem State.completeErr_mxMlen (s : State) (e : CmdError) : (s.completeErr e).mxMlen = s.mxMlen := rfl
@[simp] theorem State.completeErr_mxMinlen (s : State) (e : CmdError) : (s.completeErr e).mxMinlen = s.mxMinlen := rfl
@[simp] theorem State.completeErr_mxRlen (s : State) (e : CmdError) : (s.completeErr e).mxRlen = s.mxRlen := rfl
@[simp] theorem State.completeErr_mem (s : State) (e : CmdError) : (s.completeErr e).mem = s.mem := rfl
@[simp] theorem State.completeErr_pend (s : State) (e : CmdError) : (s.completeErr e).pend = s.pend := rfl
@[simp] theorem State.completeErr_params (s : State) (e : CmdError) : (s.completeErr e).params = s.params := rfl
@[simp] theorem State.completeErr_resp (s : State) (e : CmdError) : (s.completeErr e).resp = s.resp := rfl
@[simp] theorem State.completeErr_sched (s : State) (e : CmdError) : (s.completeErr e).sched = s.sched := rfl

/-! ## `State.dropWrite` -/

@[simp] theorem State.dropWrite_status (s : State) : s.dropWrite.status = statusWord s.busy s.done s.err true := rfl
@[simp] theorem State.dropWrite_errcode (s : State) : s.dropWrite.errcode = s.errcode := rfl
@[simp] theorem State.dropWrite_errinfo (s : State) : s.dropWrite.errinfo = s.errinfo := rfl
@[simp] theorem State.dropWrite_ctrl (s : State) : s.dropWrite.ctrl = s.ctrl := rfl
@[simp] theorem State.dropWrite_inLen (s : State) : s.dropWrite.inLen = s.inLen := rfl
@[simp] theorem State.dropWrite_outLen (s : State) : s.dropWrite.outLen = s.outLen := rfl
@[simp] theorem State.dropWrite_rectX (s : State) : s.dropWrite.rectX = s.rectX := rfl
@[simp] theorem State.dropWrite_rectY (s : State) : s.dropWrite.rectY = s.rectY := rfl
@[simp] theorem State.dropWrite_rectW (s : State) : s.dropWrite.rectW = s.rectW := rfl
@[simp] theorem State.dropWrite_rectH (s : State) : s.dropWrite.rectH = s.rectH := rfl
@[simp] theorem State.dropWrite_srcX (s : State) : s.dropWrite.srcX = s.srcX := rfl
@[simp] theorem State.dropWrite_srcY (s : State) : s.dropWrite.srcY = s.srcY := rfl
@[simp] theorem State.dropWrite_desKey (s : State) : s.dropWrite.desKey = s.desKey := rfl
@[simp] theorem State.dropWrite_desIn (s : State) : s.dropWrite.desIn = s.desIn := rfl
@[simp] theorem State.dropWrite_desOut (s : State) : s.dropWrite.desOut = s.desOut := rfl
@[simp] theorem State.dropWrite_pfCtrl (s : State) : s.dropWrite.pfCtrl = s.pfCtrl := rfl
@[simp] theorem State.dropWrite_pfRmax (s : State) : s.dropWrite.pfRmax = s.pfRmax := rfl
@[simp] theorem State.dropWrite_pfGmax (s : State) : s.dropWrite.pfGmax = s.pfGmax := rfl
@[simp] theorem State.dropWrite_pfBmax (s : State) : s.dropWrite.pfBmax = s.pfBmax := rfl
@[simp] theorem State.dropWrite_pfShift (s : State) : s.dropWrite.pfShift = s.pfShift := rfl
@[simp] theorem State.dropWrite_mxAlen (s : State) : s.dropWrite.mxAlen = s.mxAlen := rfl
@[simp] theorem State.dropWrite_mxBlen (s : State) : s.dropWrite.mxBlen = s.mxBlen := rfl
@[simp] theorem State.dropWrite_mxMlen (s : State) : s.dropWrite.mxMlen = s.mxMlen := rfl
@[simp] theorem State.dropWrite_mxMinlen (s : State) : s.dropWrite.mxMinlen = s.mxMinlen := rfl
@[simp] theorem State.dropWrite_mxRlen (s : State) : s.dropWrite.mxRlen = s.mxRlen := rfl
@[simp] theorem State.dropWrite_mem (s : State) : s.dropWrite.mem = s.mem := rfl
@[simp] theorem State.dropWrite_pend (s : State) : s.dropWrite.pend = s.pend := rfl
@[simp] theorem State.dropWrite_params (s : State) : s.dropWrite.params = s.params := rfl
@[simp] theorem State.dropWrite_resp (s : State) : s.dropWrite.resp = s.resp := rfl
@[simp] theorem State.dropWrite_sched (s : State) : s.dropWrite.sched = s.sched := rfl

/-! ## `State.withPixels` -/

@[simp] theorem State.withPixels_status (s : State) (px : List Rgba) : (s.withPixels px).status = s.status := rfl
@[simp] theorem State.withPixels_errcode (s : State) (px : List Rgba) : (s.withPixels px).errcode = s.errcode := rfl
@[simp] theorem State.withPixels_errinfo (s : State) (px : List Rgba) : (s.withPixels px).errinfo = s.errinfo := rfl
@[simp] theorem State.withPixels_ctrl (s : State) (px : List Rgba) : (s.withPixels px).ctrl = s.ctrl := rfl
@[simp] theorem State.withPixels_inLen (s : State) (px : List Rgba) : (s.withPixels px).inLen = s.inLen := rfl
@[simp] theorem State.withPixels_outLen (s : State) (px : List Rgba) : (s.withPixels px).outLen = BitVec.ofNat 32 (4 * px.length) := rfl
@[simp] theorem State.withPixels_rectX (s : State) (px : List Rgba) : (s.withPixels px).rectX = s.rectX := rfl
@[simp] theorem State.withPixels_rectY (s : State) (px : List Rgba) : (s.withPixels px).rectY = s.rectY := rfl
@[simp] theorem State.withPixels_rectW (s : State) (px : List Rgba) : (s.withPixels px).rectW = s.rectW := rfl
@[simp] theorem State.withPixels_rectH (s : State) (px : List Rgba) : (s.withPixels px).rectH = s.rectH := rfl
@[simp] theorem State.withPixels_srcX (s : State) (px : List Rgba) : (s.withPixels px).srcX = s.srcX := rfl
@[simp] theorem State.withPixels_srcY (s : State) (px : List Rgba) : (s.withPixels px).srcY = s.srcY := rfl
@[simp] theorem State.withPixels_desKey (s : State) (px : List Rgba) : (s.withPixels px).desKey = s.desKey := rfl
@[simp] theorem State.withPixels_desIn (s : State) (px : List Rgba) : (s.withPixels px).desIn = s.desIn := rfl
@[simp] theorem State.withPixels_desOut (s : State) (px : List Rgba) : (s.withPixels px).desOut = s.desOut := rfl
@[simp] theorem State.withPixels_pfCtrl (s : State) (px : List Rgba) : (s.withPixels px).pfCtrl = s.pfCtrl := rfl
@[simp] theorem State.withPixels_pfRmax (s : State) (px : List Rgba) : (s.withPixels px).pfRmax = s.pfRmax := rfl
@[simp] theorem State.withPixels_pfGmax (s : State) (px : List Rgba) : (s.withPixels px).pfGmax = s.pfGmax := rfl
@[simp] theorem State.withPixels_pfBmax (s : State) (px : List Rgba) : (s.withPixels px).pfBmax = s.pfBmax := rfl
@[simp] theorem State.withPixels_pfShift (s : State) (px : List Rgba) : (s.withPixels px).pfShift = s.pfShift := rfl
@[simp] theorem State.withPixels_mxAlen (s : State) (px : List Rgba) : (s.withPixels px).mxAlen = s.mxAlen := rfl
@[simp] theorem State.withPixels_mxBlen (s : State) (px : List Rgba) : (s.withPixels px).mxBlen = s.mxBlen := rfl
@[simp] theorem State.withPixels_mxMlen (s : State) (px : List Rgba) : (s.withPixels px).mxMlen = s.mxMlen := rfl
@[simp] theorem State.withPixels_mxMinlen (s : State) (px : List Rgba) : (s.withPixels px).mxMinlen = s.mxMinlen := rfl
@[simp] theorem State.withPixels_mxRlen (s : State) (px : List Rgba) : (s.withPixels px).mxRlen = s.mxRlen := rfl
@[simp] theorem State.withPixels_mem (s : State) (px : List Rgba) : (s.withPixels px).mem = s.mem.writeBytes (Buf.base .out) (rgbaBytes px) := rfl
@[simp] theorem State.withPixels_pend (s : State) (px : List Rgba) : (s.withPixels px).pend = s.pend := rfl
@[simp] theorem State.withPixels_params (s : State) (px : List Rgba) : (s.withPixels px).params = s.params := rfl
@[simp] theorem State.withPixels_resp (s : State) (px : List Rgba) : (s.withPixels px).resp = s.resp := rfl
@[simp] theorem State.withPixels_sched (s : State) (px : List Rgba) : (s.withPixels px).sched = s.sched := rfl

/-! ## `State.withMxResult` -/

@[simp] theorem State.withMxResult_status (s : State) (bs : List Byte) : (s.withMxResult bs).status = s.status := rfl
@[simp] theorem State.withMxResult_errcode (s : State) (bs : List Byte) : (s.withMxResult bs).errcode = s.errcode := rfl
@[simp] theorem State.withMxResult_errinfo (s : State) (bs : List Byte) : (s.withMxResult bs).errinfo = s.errinfo := rfl
@[simp] theorem State.withMxResult_ctrl (s : State) (bs : List Byte) : (s.withMxResult bs).ctrl = s.ctrl := rfl
@[simp] theorem State.withMxResult_inLen (s : State) (bs : List Byte) : (s.withMxResult bs).inLen = s.inLen := rfl
@[simp] theorem State.withMxResult_outLen (s : State) (bs : List Byte) : (s.withMxResult bs).outLen = s.outLen := rfl
@[simp] theorem State.withMxResult_rectX (s : State) (bs : List Byte) : (s.withMxResult bs).rectX = s.rectX := rfl
@[simp] theorem State.withMxResult_rectY (s : State) (bs : List Byte) : (s.withMxResult bs).rectY = s.rectY := rfl
@[simp] theorem State.withMxResult_rectW (s : State) (bs : List Byte) : (s.withMxResult bs).rectW = s.rectW := rfl
@[simp] theorem State.withMxResult_rectH (s : State) (bs : List Byte) : (s.withMxResult bs).rectH = s.rectH := rfl
@[simp] theorem State.withMxResult_srcX (s : State) (bs : List Byte) : (s.withMxResult bs).srcX = s.srcX := rfl
@[simp] theorem State.withMxResult_srcY (s : State) (bs : List Byte) : (s.withMxResult bs).srcY = s.srcY := rfl
@[simp] theorem State.withMxResult_desKey (s : State) (bs : List Byte) : (s.withMxResult bs).desKey = s.desKey := rfl
@[simp] theorem State.withMxResult_desIn (s : State) (bs : List Byte) : (s.withMxResult bs).desIn = s.desIn := rfl
@[simp] theorem State.withMxResult_desOut (s : State) (bs : List Byte) : (s.withMxResult bs).desOut = s.desOut := rfl
@[simp] theorem State.withMxResult_pfCtrl (s : State) (bs : List Byte) : (s.withMxResult bs).pfCtrl = s.pfCtrl := rfl
@[simp] theorem State.withMxResult_pfRmax (s : State) (bs : List Byte) : (s.withMxResult bs).pfRmax = s.pfRmax := rfl
@[simp] theorem State.withMxResult_pfGmax (s : State) (bs : List Byte) : (s.withMxResult bs).pfGmax = s.pfGmax := rfl
@[simp] theorem State.withMxResult_pfBmax (s : State) (bs : List Byte) : (s.withMxResult bs).pfBmax = s.pfBmax := rfl
@[simp] theorem State.withMxResult_pfShift (s : State) (bs : List Byte) : (s.withMxResult bs).pfShift = s.pfShift := rfl
@[simp] theorem State.withMxResult_mxAlen (s : State) (bs : List Byte) : (s.withMxResult bs).mxAlen = s.mxAlen := rfl
@[simp] theorem State.withMxResult_mxBlen (s : State) (bs : List Byte) : (s.withMxResult bs).mxBlen = s.mxBlen := rfl
@[simp] theorem State.withMxResult_mxMlen (s : State) (bs : List Byte) : (s.withMxResult bs).mxMlen = s.mxMlen := rfl
@[simp] theorem State.withMxResult_mxMinlen (s : State) (bs : List Byte) : (s.withMxResult bs).mxMinlen = s.mxMinlen := rfl
@[simp] theorem State.withMxResult_mxRlen (s : State) (bs : List Byte) : (s.withMxResult bs).mxRlen = BitVec.ofNat 32 bs.length := rfl
@[simp] theorem State.withMxResult_mem (s : State) (bs : List Byte) : (s.withMxResult bs).mem = s.mem.writeBytes (Buf.base .mxR) bs := rfl
@[simp] theorem State.withMxResult_pend (s : State) (bs : List Byte) : (s.withMxResult bs).pend = s.pend := rfl
@[simp] theorem State.withMxResult_params (s : State) (bs : List Byte) : (s.withMxResult bs).params = s.params := rfl
@[simp] theorem State.withMxResult_resp (s : State) (bs : List Byte) : (s.withMxResult bs).resp = s.resp := rfl
@[simp] theorem State.withMxResult_sched (s : State) (bs : List Byte) : (s.withMxResult bs).sched = s.sched := rfl

/-! ## `State.popEvent` -/

@[simp] theorem State.popEvent_status (s : State) : s.popEvent.status = s.status := rfl
@[simp] theorem State.popEvent_errcode (s : State) : s.popEvent.errcode = s.errcode := rfl
@[simp] theorem State.popEvent_errinfo (s : State) : s.popEvent.errinfo = s.errinfo := rfl
@[simp] theorem State.popEvent_ctrl (s : State) : s.popEvent.ctrl = s.ctrl := rfl
@[simp] theorem State.popEvent_inLen (s : State) : s.popEvent.inLen = s.inLen := rfl
@[simp] theorem State.popEvent_outLen (s : State) : s.popEvent.outLen = s.outLen := rfl
@[simp] theorem State.popEvent_rectX (s : State) : s.popEvent.rectX = s.rectX := rfl
@[simp] theorem State.popEvent_rectY (s : State) : s.popEvent.rectY = s.rectY := rfl
@[simp] theorem State.popEvent_rectW (s : State) : s.popEvent.rectW = s.rectW := rfl
@[simp] theorem State.popEvent_rectH (s : State) : s.popEvent.rectH = s.rectH := rfl
@[simp] theorem State.popEvent_srcX (s : State) : s.popEvent.srcX = s.srcX := rfl
@[simp] theorem State.popEvent_srcY (s : State) : s.popEvent.srcY = s.srcY := rfl
@[simp] theorem State.popEvent_desKey (s : State) : s.popEvent.desKey = s.desKey := rfl
@[simp] theorem State.popEvent_desIn (s : State) : s.popEvent.desIn = s.desIn := rfl
@[simp] theorem State.popEvent_desOut (s : State) : s.popEvent.desOut = s.desOut := rfl
@[simp] theorem State.popEvent_pfCtrl (s : State) : s.popEvent.pfCtrl = s.pfCtrl := rfl
@[simp] theorem State.popEvent_pfRmax (s : State) : s.popEvent.pfRmax = s.pfRmax := rfl
@[simp] theorem State.popEvent_pfGmax (s : State) : s.popEvent.pfGmax = s.pfGmax := rfl
@[simp] theorem State.popEvent_pfBmax (s : State) : s.popEvent.pfBmax = s.pfBmax := rfl
@[simp] theorem State.popEvent_pfShift (s : State) : s.popEvent.pfShift = s.pfShift := rfl
@[simp] theorem State.popEvent_mxAlen (s : State) : s.popEvent.mxAlen = s.mxAlen := rfl
@[simp] theorem State.popEvent_mxBlen (s : State) : s.popEvent.mxBlen = s.mxBlen := rfl
@[simp] theorem State.popEvent_mxMlen (s : State) : s.popEvent.mxMlen = s.mxMlen := rfl
@[simp] theorem State.popEvent_mxMinlen (s : State) : s.popEvent.mxMinlen = s.mxMinlen := rfl
@[simp] theorem State.popEvent_mxRlen (s : State) : s.popEvent.mxRlen = s.mxRlen := rfl
@[simp] theorem State.popEvent_mem (s : State) : s.popEvent.mem = s.mem := rfl
@[simp] theorem State.popEvent_pend (s : State) : s.popEvent.pend = s.pend := rfl
@[simp] theorem State.popEvent_params (s : State) : s.popEvent.params = s.params := rfl
@[simp] theorem State.popEvent_resp (s : State) : s.popEvent.resp = s.resp := rfl
@[simp] theorem State.popEvent_sched (s : State) : s.popEvent.sched = s.sched.tail := rfl

/-! ## The flags of a status word -/

theorem statusWord_busy (b d e o : Bool) : (statusWord b d e o).getLsbD 0 = b := by
  cases b <;> cases d <;> cases e <;> cases o <;> rfl

@[simp] theorem statusWord_getElem_busy (b d e o : Bool) : (statusWord b d e o)[0] = b := by
  cases b <;> cases d <;> cases e <;> cases o <;> rfl

theorem statusWord_done (b d e o : Bool) : (statusWord b d e o).getLsbD 1 = d := by
  cases b <;> cases d <;> cases e <;> cases o <;> rfl

@[simp] theorem statusWord_getElem_done (b d e o : Bool) : (statusWord b d e o)[1] = d := by
  cases b <;> cases d <;> cases e <;> cases o <;> rfl

theorem statusWord_err (b d e o : Bool) : (statusWord b d e o).getLsbD 2 = e := by
  cases b <;> cases d <;> cases e <;> cases o <;> rfl

@[simp] theorem statusWord_getElem_err (b d e o : Bool) : (statusWord b d e o)[2] = e := by
  cases b <;> cases d <;> cases e <;> cases o <;> rfl

theorem statusWord_ovr (b d e o : Bool) : (statusWord b d e o).getLsbD 3 = o := by
  cases b <;> cases d <;> cases e <;> cases o <;> rfl

@[simp] theorem statusWord_getElem_ovr (b d e o : Bool) : (statusWord b d e o)[3] = o := by
  cases b <;> cases d <;> cases e <;> cases o <;> rfl

/-- The reserved bits of a status word are 0 (R24). -/
@[simp] theorem statusWord_reserved (b d e o : Bool) : statusWord b d e o &&& ~~~(0x0000000F#32) = 0 := by
  cases b <;> cases d <;> cases e <;> cases o <;> rfl

@[simp] theorem State.acceptCommand_busy (s : State) (c : Word) : (s.acceptCommand c).busy = true := statusWord_busy _ _ _ _
@[simp] theorem State.acceptCommand_done (s : State) (c : Word) : (s.acceptCommand c).done = false := statusWord_done _ _ _ _
@[simp] theorem State.acceptCommand_err (s : State) (c : Word) : (s.acceptCommand c).err = false := statusWord_err _ _ _ _
@[simp] theorem State.acceptCommand_ovr (s : State) (c : Word) : (s.acceptCommand c).ovr = s.ovr := statusWord_ovr _ _ _ _

@[simp] theorem State.completeOk_busy (s : State) : s.completeOk.busy = false := statusWord_busy _ _ _ _
@[simp] theorem State.completeOk_done (s : State) : s.completeOk.done = true := statusWord_done _ _ _ _
@[simp] theorem State.completeOk_err (s : State) : s.completeOk.err = false := statusWord_err _ _ _ _
@[simp] theorem State.completeOk_ovr (s : State) : s.completeOk.ovr = s.ovr := statusWord_ovr _ _ _ _

@[simp] theorem State.completeErr_busy (s : State) (e : CmdError) : (s.completeErr e).busy = false := statusWord_busy _ _ _ _
@[simp] theorem State.completeErr_done (s : State) (e : CmdError) : (s.completeErr e).done = true := statusWord_done _ _ _ _
@[simp] theorem State.completeErr_err (s : State) (e : CmdError) : (s.completeErr e).err = true := statusWord_err _ _ _ _
@[simp] theorem State.completeErr_ovr (s : State) (e : CmdError) : (s.completeErr e).ovr = s.ovr := statusWord_ovr _ _ _ _

@[simp] theorem State.dropWrite_busy (s : State) : s.dropWrite.busy = s.busy := statusWord_busy _ _ _ _
@[simp] theorem State.dropWrite_done (s : State) : s.dropWrite.done = s.done := statusWord_done _ _ _ _
@[simp] theorem State.dropWrite_err (s : State) : s.dropWrite.err = s.err := statusWord_err _ _ _ _
@[simp] theorem State.dropWrite_ovr (s : State) : s.dropWrite.ovr = true := statusWord_ovr _ _ _ _

@[simp] theorem State.withPixels_busy (s : State) (px : List Rgba) : (s.withPixels px).busy = s.busy := rfl
@[simp] theorem State.withPixels_done (s : State) (px : List Rgba) : (s.withPixels px).done = s.done := rfl
@[simp] theorem State.withPixels_err (s : State) (px : List Rgba) : (s.withPixels px).err = s.err := rfl
@[simp] theorem State.withPixels_ovr (s : State) (px : List Rgba) : (s.withPixels px).ovr = s.ovr := rfl
@[simp] theorem State.withPixels_ie (s : State) (px : List Rgba) : (s.withPixels px).ie = s.ie := rfl

@[simp] theorem State.withMxResult_busy (s : State) (bs : List Byte) : (s.withMxResult bs).busy = s.busy := rfl
@[simp] theorem State.withMxResult_done (s : State) (bs : List Byte) : (s.withMxResult bs).done = s.done := rfl
@[simp] theorem State.withMxResult_err (s : State) (bs : List Byte) : (s.withMxResult bs).err = s.err := rfl
@[simp] theorem State.withMxResult_ovr (s : State) (bs : List Byte) : (s.withMxResult bs).ovr = s.ovr := rfl
@[simp] theorem State.withMxResult_ie (s : State) (bs : List Byte) : (s.withMxResult bs).ie = s.ie := rfl

@[simp] theorem State.popEvent_busy (s : State) : s.popEvent.busy = s.busy := rfl
@[simp] theorem State.popEvent_done (s : State) : s.popEvent.done = s.done := rfl
@[simp] theorem State.popEvent_err (s : State) : s.popEvent.err = s.err := rfl
@[simp] theorem State.popEvent_ovr (s : State) : s.popEvent.ovr = s.ovr := rfl
@[simp] theorem State.popEvent_ie (s : State) : s.popEvent.ie = s.ie := rfl

end Sys2Proof.Machine
end

