-- ==== Sys2Proof/Laws/Memory.lean ====
section
/-! SUPPORT. The laws of the buffers: what a byte reads after a write, that every operation keeps the canonical form,
and that the windows of the address map do not overlap. -/

namespace Sys2Proof.Machine

/-! ## Lookup -/

theorem lookupCell_append (xs ys : List Host.Cell) (a : Nat) :
    lookupCell (xs ++ ys) a = (lookupCell xs a).or (lookupCell ys a) := by
  induction xs with
  | nil => simp [lookupCell]
  | cons c cs ih =>
    by_cases h : c.1 = a
    · simp [lookupCell, h]
    · simp [lookupCell, h, ih]

theorem lookupCell_eq_none {xs : List Host.Cell} {a : Nat} (h : ∀ c ∈ xs, c.1 ≠ a) : lookupCell xs a = none := by
  induction xs with
  | nil => rfl
  | cons c cs ih =>
    have hc : c.1 ≠ a := h c (by simp)
    simp [lookupCell, hc, ih fun d hd => h d (by simp [hd])]

theorem lookupCell_filter {xs : List Host.Cell} {a : Nat} {p : Host.Cell → Bool}
    (h : ∀ c : Host.Cell, c.1 = a → p c = true) : lookupCell (xs.filter p) a = lookupCell xs a := by
  induction xs with
  | nil => rfl
  | cons c cs ih =>
    by_cases hc : c.1 = a
    · simp [h c hc, lookupCell, hc]
    · by_cases hp : p c = true
      · simp [hp, lookupCell, hc, ih]
      · simp [hp, lookupCell, hc, ih]

/-! ## The cells of a written range -/

theorem cellsFrom_range (f : Fill) (a : Nat) (bs : List Byte) :
    ∀ c ∈ cellsFrom f a bs, a ≤ c.1 ∧ c.1 < a + bs.length := by
  induction bs generalizing a with
  | nil => simp [cellsFrom]
  | cons b bs ih =>
    intro c hc
    simp only [cellsFrom] at hc
    split at hc
    · rcases List.mem_cons.1 hc with rfl | hc
      · simp
      · have := ih (a + 1) c hc
        simp only [List.length_cons]
        omega
    · have := ih (a + 1) c hc
      simp only [List.length_cons]
      omega

theorem cellsFrom_lists (f : Fill) (a : Nat) (bs : List Byte) : ∀ c ∈ cellsFrom f a bs, f.lists c.2 = true := by
  induction bs generalizing a with
  | nil => simp [cellsFrom]
  | cons b bs ih =>
    intro c hc
    simp only [cellsFrom] at hc
    split at hc
    · rename_i hb
      rcases List.mem_cons.1 hc with rfl | hc
      · exact hb
      · exact ih (a + 1) c hc
    · exact ih (a + 1) c hc

theorem cellsFrom_rising (f : Fill) (a : Nat) (bs : List Byte) :
    (cellsFrom f a bs).Pairwise fun c d => c.1 < d.1 := by
  induction bs generalizing a with
  | nil => simp [cellsFrom]
  | cons b bs ih =>
    simp only [cellsFrom]
    split
    · refine List.pairwise_cons.2 ⟨fun c hc => ?_, ih (a + 1)⟩
      have := (cellsFrom_range f (a + 1) bs c hc).1
      simp only
      omega
    · exact ih (a + 1)

theorem lookupCell_cellsFrom (f : Fill) (a : Nat) (bs : List Byte) (i : Nat) (h : i < bs.length) :
    lookupCell (cellsFrom f a bs) (a + i) = if f.lists bs[i] then some bs[i] else none := by
  induction bs generalizing a i with
  | nil => simp at h
  | cons b bs ih =>
    have hrest : lookupCell (cellsFrom f (a + 1) bs) a = none :=
      lookupCell_eq_none fun c hc => by
        have := (cellsFrom_range f (a + 1) bs c hc).1
        omega
    cases i with
    | zero =>
      simp only [cellsFrom, List.getElem_cons_zero, Nat.add_zero]
      split
      · simp [lookupCell]
      · exact hrest
    | succ i =>
      have hi := ih (a + 1) i (by simpa using h)
      have e : a + 1 + i = a + (i + 1) := by omega
      rw [e] at hi
      simp only [cellsFrom, List.getElem_cons_succ]
      split
      · simp only [lookupCell]
        rw [if_neg (by omega), hi]
      · exact hi

/-! ## Reading after a write -/

@[simp] theorem Memory.writeBytes_fill (m : Memory) (a : Nat) (bs : List Byte) : (m.writeBytes a bs).fill = m.fill :=
  rfl

@[simp] theorem Memory.writeBytes_unlisted (m : Memory) (a : Nat) (bs : List Byte) (x : Nat) :
    (m.writeBytes a bs).unlisted x = m.unlisted x := rfl

/-- A byte the canonical form does not list is what an unlisted byte reads as. -/
theorem Memory.unlisted_of_not_lists {m : Memory} {b : Byte} (h : m.fill.lists b = false) (x : Nat) :
    m.unlisted x = b := by
  cases hf : m.fill with
  | zero =>
    have hb : b = 0 := by simpa [hf, Fill.lists] using h
    simp [Memory.unlisted, hf, hb]
  | unspecified k => simp [hf, Fill.lists] at h

/-- Everything a write does: inside the written range the bytes read as written, outside nothing changes. -/
theorem Memory.read_writeBytes (m : Memory) (a : Nat) (bs : List Byte) (x : Nat) :
    (m.writeBytes a bs).read x =
      if h : a ≤ x ∧ x < a + bs.length then bs[x - a]'(by omega) else m.read x := by
  have hlow (h : a ≤ x) : lookupCell (m.cells.filter fun c => decide (c.1 < a)) x = none :=
    lookupCell_eq_none fun c hc => by
      have := (List.mem_filter.1 hc).2
      simp only [decide_eq_true_eq] at this
      omega
  have hhigh (h : x < a + bs.length) :
      lookupCell (m.cells.filter fun c => decide (a + bs.length ≤ c.1)) x = none :=
    lookupCell_eq_none fun c hc => by
      have := (List.mem_filter.1 hc).2
      simp only [decide_eq_true_eq] at this
      omega
  have hmid (h : ¬(a ≤ x ∧ x < a + bs.length)) : lookupCell (cellsFrom m.fill a bs) x = none :=
    lookupCell_eq_none fun c hc => by
      have := cellsFrom_range m.fill a bs c hc
      omega
  simp only [Memory.read, Memory.writeBytes, lookupCell_append]
  split
  · rename_i h
    obtain ⟨i, rfl⟩ := Nat.exists_eq_add_of_le h.1
    have hi : i < bs.length := by omega
    simp only [Nat.add_sub_cancel_left, hlow h.1, hhigh h.2, lookupCell_cellsFrom _ _ _ _ hi, Option.or_none,
      Option.none_or]
    split
    · simp
    · rename_i hl
      exact Memory.unlisted_of_not_lists (m := m) (by simpa using hl) (a + i)
  · rename_i h
    rw [hmid h]
    by_cases hx : x < a
    · rw [hhigh (by omega), lookupCell_filter (by intro c hc; simp [hc, hx])]
      simp [Memory.unlisted]
    · rw [hlow (by omega), lookupCell_filter (by intro c hc; simp [hc]; omega)]
      simp [Memory.unlisted]

/-- A byte outside the written range is unchanged. -/
theorem Memory.read_writeBytes_of_not_mem {m : Memory} {a : Nat} {bs : List Byte} {x : Nat}
    (h : x < a ∨ a + bs.length ≤ x) : (m.writeBytes a bs).read x = m.read x := by
  rw [Memory.read_writeBytes, dif_neg (by omega)]

/-- A byte inside the written range is as written. -/
theorem Memory.read_writeBytes_add {m : Memory} {a : Nat} {bs : List Byte} {i : Nat} (h : i < bs.length) :
    (m.writeBytes a bs).read (a + i) = bs[i] := by
  rw [Memory.read_writeBytes, dif_pos (by omega)]
  simp

@[simp] theorem Memory.readBytes_length (m : Memory) (a n : Nat) : (m.readBytes a n).length = n := by
  simp [Memory.readBytes]

@[simp] theorem Memory.readBytes_getElem (m : Memory) (a n i : Nat) (h : i < (m.readBytes a n).length) :
    (m.readBytes a n)[i] = m.read (a + i) := by
  simp [Memory.readBytes]

/-- Reading back a written range. -/
theorem Memory.readBytes_writeBytes (m : Memory) (a : Nat) (bs : List Byte) :
    (m.writeBytes a bs).readBytes a bs.length = bs := by
  apply List.ext_getElem (by simp)
  intro i h₁ h₂
  rw [Memory.readBytes_getElem, Memory.read_writeBytes_add h₂]

/-! ## The canonical form -/

/-- Every write keeps the canonical form. -/
theorem Memory.wf_writeBytes {m : Memory} (h : m.wf) (a : Nat) (bs : List Byte) : (m.writeBytes a bs).wf := by
  obtain ⟨hr, hl⟩ := h
  refine ⟨?_, ?_⟩
  · simp only [Memory.writeBytes]
    refine List.pairwise_append.2 ⟨List.pairwise_append.2 ⟨hr.filter _, cellsFrom_rising _ _ _, ?_⟩, hr.filter _, ?_⟩
    · intro c hc d hd
      have h₁ := (List.mem_filter.1 hc).2
      have h₂ := cellsFrom_range _ _ _ d hd
      simp only [decide_eq_true_eq] at h₁
      omega
    · intro c hc d hd
      have h₂ := (List.mem_filter.1 hd).2
      simp only [decide_eq_true_eq] at h₂
      rcases List.mem_append.1 hc with hc | hc
      · have h₁ := (List.mem_filter.1 hc).2
        simp only [decide_eq_true_eq] at h₁
        omega
      · have h₁ := cellsFrom_range _ _ _ c hc
        omega
  · intro c hc
    simp only [Memory.writeBytes, List.mem_append, List.mem_filter] at hc
    rcases hc with (hc | hc) | hc
    · exact hl c hc.1
    · exact cellsFrom_lists _ _ _ c hc
    · exact hl c hc.1

theorem Memory.wf_write {m : Memory} (h : m.wf) (a : Nat) (b : Byte) : (m.write a b).wf := Memory.wf_writeBytes h a [b]

/-- A memory with nothing listed is in canonical form. -/
theorem Memory.wf_blank (f : Fill) : (Memory.mk f []).wf := by simp [Memory.wf]

/-- A write lists only old cells and cells of the written range. -/
theorem Memory.mem_writeBytes {m : Memory} {a : Nat} {bs : List Byte} {c : Host.Cell}
    (h : c ∈ (m.writeBytes a bs).cells) : c ∈ m.cells ∨ (a ≤ c.1 ∧ c.1 < a + bs.length) := by
  simp only [Memory.writeBytes, List.mem_append, List.mem_filter] at h
  rcases h with (h | h) | h
  · exact .inl h.1
  · exact .inr (cellsFrom_range _ _ _ c h)
  · exact .inl h.1

/-! ## The reset contents -/

/-- The buffers after a reset are in canonical form. -/
theorem resetMemory_wf (p : Params) (fill : Fill) (cells : List Host.Cell) : (resetMemory p fill cells).wf := by
  have h (cs : List Host.Cell) (m : Memory) (hm : m.wf) : (cs.foldl (fun m c => m.write c.1 c.2) m).wf := by
    induction cs generalizing m with
    | nil => exact hm
    | cons c cs ih => exact ih _ (Memory.wf_write hm _ _)
  exact h _ _ (Memory.wf_blank fill)

/-- The buffers after a reset list bytes of a buffer only. -/
theorem resetMemory_mapped (p : Params) (fill : Fill) (cells : List Host.Cell) :
    ∀ c ∈ (resetMemory p fill cells).cells, (bufAt p c.1).isSome = true := by
  have h (cs : List Host.Cell) (m : Memory) (hcs : ∀ c ∈ cs, (bufAt p c.1).isSome = true)
      (hm : ∀ c ∈ m.cells, (bufAt p c.1).isSome = true) :
      ∀ c ∈ (cs.foldl (fun m c => m.write c.1 c.2) m).cells, (bufAt p c.1).isSome = true := by
    induction cs generalizing m with
    | nil => exact hm
    | cons d cs ih =>
      refine ih _ (fun c hc => hcs c (by simp [hc])) fun c hc => ?_
      rcases Memory.mem_writeBytes hc with hc | hc
      · exact hm c hc
      · have : c.1 = d.1 := by simp at hc; omega
        rw [this]
        exact hcs d (by simp)
  exact h _ _ (fun c hc => (List.mem_filter.1 hc).2) (by simp)

/-! ## The windows -/

/-- The constraints of R5 as propositions. -/
theorem Params.wf_bounds {p : Params} (h : p.wf = true) :
    (1 ≤ p.inSize ∧ p.inSize ≤ 2 ^ 24) ∧ (4 ≤ p.outSize ∧ p.outSize ≤ 2 ^ 26 ∧ p.outSize % 4 = 0) ∧
      (1 ≤ p.mxSize ∧ p.mxSize ≤ 2 ^ 16) := by
  simpa [Params.wf, Params.inSizeOk, Params.outSizeOk, Params.mxSizeOk, and_assoc] using h

/-- Under the constraints of R5 the windows of two buffers do not overlap (R61). -/
theorem Buf.windows_disjoint {p : Params} (h : p.wf = true) {b c : Buf} (hbc : b ≠ c) {i j : Nat}
    (hi : i < b.capacity p) (hj : j < c.capacity p) : b.base + i ≠ c.base + j := by
  have hp := Params.wf_bounds h
  cases b <;> cases c <;> simp only [Buf.base, Buf.capacity, ne_eq, not_true_eq_false] at * <;> omega

/-- A byte of a window is an offset the map has. -/
theorem bufAt_isSome {p : Params} {b : Buf} {a : Nat} (h : b.base ≤ a ∧ a < b.base + b.capacity p) :
    (bufAt p a).isSome = true := by
  rw [bufAt, List.find?_isSome]
  exact ⟨b, by cases b <;> simp [Buf.all], by simp [Buf.holds, h]⟩

end Sys2Proof.Machine
end

