-- ==== Sys2Proof/Laws/Ops.lean ====
section
/-! SUPPORT. For each shared operation, once, everything it can do: the completion of a command, the checks, the
operand fetches, the commits, and the address map. -/

namespace Sys2Proof.Machine

/-! ## Completion -/

/-- A command that answers a next state either completed OK with its updates, or left them all out. -/
theorem finish_eq_next {s t : State} {r : Except CmdError State} (h : finish s r = .next t) :
    (∃ u, r = .ok u ∧ t = u.completeOk) ∨ ∃ e, r = .error e ∧ t = s.completeErr e := by
  cases r with
  | ok u => exact .inl ⟨u, rfl, (Host.Outcome.next.inj h).symm⟩
  | error e => exact .inr ⟨e, rfl, (Host.Outcome.next.inj h).symm⟩

theorem finish_ok (s t : State) : finish s (.ok t) = .next t.completeOk := rfl

theorem finish_error (s : State) (e : CmdError) : finish s (.error e) = .next (s.completeErr e) := rfl

/-- Every command ends by one of the two completions (R87). -/
theorem exec_eq_finish (i : Instr) (s : State) :
    exec i s = finish s (match i with
      | .nop => .ok s
      | .clear => .ok s.cleared
      | .desEnc kr => .ok { s with desOut := desEncrypt kr s.desKey s.desIn }
      | .mxModpow => mxModpow s
      | .mxMod => mxMod s
      | .mxMul => mxMul s
      | .pxConv => pxConv s
      | .decRaw => decRaw s
      | .decCopyrect => decCopyrect s
      | .decRre => decRre s
      | .decHextile => decHextile s) := by
  cases i <;> rfl

theorem finish_goes_on (s : State) (r : Except CmdError State) : ∃ t, finish s r = .next t := by
  cases r with
  | ok u => exact ⟨_, rfl⟩
  | error e => exact ⟨_, rfl⟩

/-! ## The checks -/

theorem need_eq_ok {bs : List Byte} {cur n : Nat} {u : Unit} : need bs cur n = .ok u ↔ cur + n ≤ bs.length := by
  unfold need
  split <;> simp <;> omega

theorem need_eq_error {bs : List Byte} {cur n : Nat} {e : CmdError} :
    need bs cur n = .error e ↔ bs.length < cur + n ∧ e = ⟨.protocol, BitVec.ofNat 32 cur⟩ := by
  unfold need
  split
  · rename_i h
    simp [h, eq_comm]
  · rename_i h
    simp
    omega

theorem readPix_eq_ok {f : PixelFormat} {bs : List Byte} {cur : Nat} {r : Rgba × Nat} :
    readPix f bs cur = .ok r ↔ cur + f.bpp ≤ bs.length ∧ r = (pixAt f bs cur, cur + f.bpp) := by
  unfold readPix need
  split
  · rename_i h
    simp [bind, Except.bind]
    omega
  · rename_i h
    simp [bind, Except.bind, eq_comm]
    omega

theorem readPix_eq_error {f : PixelFormat} {bs : List Byte} {cur : Nat} {e : CmdError} :
    readPix f bs cur = .error e ↔ bs.length < cur + f.bpp ∧ e = ⟨.protocol, BitVec.ofNat 32 cur⟩ := by
  unfold readPix need
  split
  · rename_i h
    simp [bind, Except.bind, h, eq_comm]
  · rename_i h
    simp [bind, Except.bind]
    omega

theorem checkInLen_eq_ok {s : State} {u : Unit} : checkInLen s = .ok u ↔ s.inLen.toNat ≤ s.params.inSize := by
  unfold checkInLen
  split <;> simp <;> omega

theorem checkInLen_eq_error {s : State} {e : CmdError} :
    checkInLen s = .error e ↔ s.params.inSize < s.inLen.toNat ∧ e = ⟨.capacity, 0⟩ := by
  unfold checkInLen
  split
  · rename_i h
    simp [h, eq_comm]
  · rename_i h
    simp
    omega

/-- A format that PFCHECK lets pass is the one of the registers, and it is legal (R160, R161). -/
theorem pfCheck_eq_ok {s : State} {f : PixelFormat} :
    s.pfCheck = .ok f ↔ bppOf s.pfCtrl = some f.bpp ∧ f.legal = true ∧ f = s.formatWith f.bpp := by
  unfold State.pfCheck
  split
  · rename_i h
    simp [h]
  · rename_i bpp h
    split
    · rename_i hl
      simp only [Except.ok.injEq, h, Option.some.injEq]
      constructor
      · rintro rfl
        exact ⟨rfl, hl, rfl⟩
      · rintro ⟨rfl, _, hf⟩
        exact hf.symm
    · rename_i hl
      simp only [reduceCtorEq, h, Option.some.injEq, false_iff]
      rintro ⟨rfl, hf, he⟩
      exact hl (he ▸ hf)

theorem pfCheck_eq_error {s : State} {e : CmdError} (h : s.pfCheck = .error e) : e = ⟨.pixfmt, 0⟩ := by
  unfold State.pfCheck at h
  split at h
  · exact (Except.error.inj h).symm
  · split at h
    · simp at h
    · exact (Except.error.inj h).symm

/-- The bytes per pixel are 1, 2 or 4 (R160). -/
theorem bppOf_eq_some {w : Word} {n : Nat} (h : bppOf w = some n) : n = 1 ∨ n = 2 ∨ n = 4 := by
  unfold bppOf at h
  split at h <;> simp_all

/-- The pre-checks pass exactly when format, input length and output size do (R182). -/
theorem decPreCheck_eq_ok {s : State} {f : PixelFormat} :
    decPreCheck s = .ok f ↔
      s.pfCheck = .ok f ∧ s.inLen.toNat ≤ s.params.inSize ∧ s.rectWidth * s.rectHeight * 4 ≤ s.params.outSize := by
  unfold decPreCheck
  cases hp : s.pfCheck with
  | error e => simp [bind, Except.bind]
  | ok g =>
    cases hc : checkInLen s with
    | error e =>
      have := (checkInLen_eq_error.1 hc).1
      simp [bind, Except.bind]
      intro _
      omega
    | ok u =>
      have := checkInLen_eq_ok.1 hc
      simp only [bind, Except.bind]
      split
      · simp
        intro _ _
        omega
      · simp
        omega

/-- The pre-checks fail with ERR_PIXFMT or ERR_CAPACITY and no detail (R182). -/
theorem decPreCheck_eq_error {s : State} {e : CmdError} (h : decPreCheck s = .error e) :
    e = ⟨.pixfmt, 0⟩ ∨ e = ⟨.capacity, 0⟩ := by
  unfold decPreCheck at h
  cases hp : s.pfCheck with
  | error e' =>
    rw [hp] at h
    exact .inl (Except.error.inj h ▸ pfCheck_eq_error hp)
  | ok g =>
    rw [hp] at h
    cases hc : checkInLen s with
    | error e' =>
      rw [hc] at h
      exact .inr (Except.error.inj h ▸ (checkInLen_eq_error.1 hc).2)
    | ok u =>
      rw [hc] at h
      simp only [bind, Except.bind] at h
      split at h
      · exact .inr (Except.error.inj h).symm
      · simp at h

/-! ## MX operands and write-back -/

theorem mxOperand_eq_ok {s : State} {b : Buf} {len : Word} {v : Nat} :
    mxOperand s b len = .ok v ↔ len.toNat ≤ s.params.mxSize ∧ v = natOf (s.bufBytes b len.toNat) := by
  unfold mxOperand
  split
  · rename_i h
    simp
    omega
  · rename_i h
    simp [eq_comm]
    omega

theorem mxOperand_eq_error {s : State} {b : Buf} {len : Word} {e : CmdError} :
    mxOperand s b len = .error e ↔ s.params.mxSize < len.toNat ∧ e = ⟨.capacity, 0⟩ := by
  unfold mxOperand
  split
  · rename_i h
    simp [h, eq_comm]
  · rename_i h
    simp
    omega

theorem mxWriteBack_eq_ok {s t : State} {v : Nat} :
    mxWriteBack s v = .ok t ↔ max s.mxMinlen.toNat (natlen v) ≤ 2 * s.params.mxSize ∧
      t = s.withMxResult (toBytesBe v s.mxMinlen.toNat) := by
  unfold mxWriteBack
  split
  · rename_i h
    simp
    omega
  · rename_i h
    simp [eq_comm]
    omega

theorem mxWriteBack_eq_error {s : State} {v : Nat} {e : CmdError} (h : mxWriteBack s v = .error e) :
    e = ⟨.capacity, 0⟩ := by
  unfold mxWriteBack at h
  split at h
  · exact (Except.error.inj h).symm
  · simp at h

/-! ## Lengths of what is committed -/

@[simp] theorem rgbaBytes_length (px : List Rgba) : (rgbaBytes px).length = 4 * px.length := by
  induction px with
  | nil => rfl
  | cons c cs ih =>
    simp only [rgbaBytes, List.flatMap_cons, List.length_append, List.length_cons, List.length_nil] at *
    omega

@[simp] theorem Canvas.pixels_length (px : Canvas) (w h : Nat) : (px.pixels w h).length = w * h := by
  simp [Canvas.pixels, List.length_flatMap, Nat.mul_comm]

@[simp] theorem convertToRgba_length (f : PixelFormat) (bs : List Byte) :
    (convertToRgba f bs).length = bs.length / f.bpp := by
  simp [convertToRgba]

@[simp] theorem beBytes_length (v n : Nat) : (beBytes v n).length = n := by simp [beBytes]

@[simp] theorem toBytesBe_length (v n : Nat) : (toBytesBe v n).length = max n (natlen v) := by simp [toBytesBe]

@[simp] theorem State.payload_length (s : State) : s.payload.length = s.inLen.toNat := by
  simp [State.payload, State.bufBytes]

@[simp] theorem State.bufBytes_length (s : State) (b : Buf) (n : Nat) : (s.bufBytes b n).length = n := by
  simp [State.bufBytes]

/-- Byte `4k + j` of a pixel sequence is component `j` of pixel `k` (R171). -/
theorem rgbaBytes_getElem? (px : List Rgba) (k : Nat) (h : k < px.length) :
    (rgbaBytes px)[4 * k]? = some px[k].r ∧ (rgbaBytes px)[4 * k + 1]? = some px[k].g ∧
      (rgbaBytes px)[4 * k + 2]? = some px[k].b ∧ (rgbaBytes px)[4 * k + 3]? = some px[k].a := by
  induction px generalizing k with
  | nil => simp at h
  | cons c cs ih =>
    cases k with
    | zero => simp [rgbaBytes]
    | succ k =>
      have := ih k (by simpa using h)
      simpa [rgbaBytes, Nat.mul_add] using this

/-! ## The commands that write pixels -/

/-- What PX.CONV can do: on OK it commits as many pixels as fit (R169). -/
theorem pxConv_eq_ok {s t : State} (h : pxConv s = .ok t) :
    ∃ f, s.pfCheck = .ok f ∧ s.inLen.toNat ≤ s.params.inSize ∧ 4 * (s.inLen.toNat / f.bpp) ≤ s.params.outSize ∧
      s.inLen.toNat % f.bpp = 0 ∧ t = s.withPixels (convertToRgba f s.payload) := by
  unfold pxConv at h
  cases hp : s.pfCheck with
  | error e => simp [hp, bind, Except.bind] at h
  | ok f =>
    cases hc : checkInLen s with
    | error e => simp [hp, hc, bind, Except.bind] at h
    | ok u =>
      simp only [hp, hc, bind, Except.bind] at h
      split at h
      · simp at h
      · split at h
        · simp at h
        · rename_i h₁ h₂
          exact ⟨f, rfl, checkInLen_eq_ok.1 hc, by omega, by omega, (Except.ok.inj h).symm⟩

/-- What DEC.RAW can do on OK (R184). -/
theorem decRaw_eq_ok {s t : State} (h : decRaw s = .ok t) :
    ∃ f px, decPreCheck s = .ok f ∧ decodeRaw f s.rectWidth s.rectHeight s.payload = .ok px ∧
      t = s.withPixels (Canvas.pixels px s.rectWidth s.rectHeight) := by
  unfold decRaw at h
  cases hp : decPreCheck s with
  | error e => simp [hp, bind, Except.bind] at h
  | ok f =>
    cases hd : decodeRaw f s.rectWidth s.rectHeight s.payload with
    | error e => simp [hp, hd, bind, Except.bind] at h
    | ok px =>
      simp only [hp, hd, bind, Except.bind] at h
      exact ⟨f, px, rfl, hd, (Except.ok.inj h).symm⟩

/-- What DEC.RRE can do on OK (R187). -/
theorem decRre_eq_ok {s t : State} (h : decRre s = .ok t) :
    ∃ f px, decPreCheck s = .ok f ∧ decodeRre f s.rectWidth s.rectHeight s.payload = .ok px ∧
      t = s.withPixels (Canvas.pixels px s.rectWidth s.rectHeight) := by
  unfold decRre at h
  cases hp : decPreCheck s with
  | error e => simp [hp, bind, Except.bind] at h
  | ok f =>
    cases hd : decodeRre f s.rectWidth s.rectHeight s.payload with
    | error e => simp [hp, hd, bind, Except.bind] at h
    | ok px =>
      simp only [hp, hd, bind, Except.bind] at h
      exact ⟨f, px, rfl, hd, (Except.ok.inj h).symm⟩

/-- What DEC.HEXTILE can do on OK (R219). -/
theorem decHextile_eq_ok {s t : State} (h : decHextile s = .ok t) :
    ∃ f px, decPreCheck s = .ok f ∧
      decodeHextile f s.rectWidth s.rectHeight s.params.hxInitBg s.params.hxInitFg s.payload = .ok px ∧
      t = s.withPixels (Canvas.pixels px s.rectWidth s.rectHeight) := by
  unfold decHextile at h
  cases hp : decPreCheck s with
  | error e => simp [hp, bind, Except.bind] at h
  | ok f =>
    cases hd : decodeHextile f s.rectWidth s.rectHeight s.params.hxInitBg s.params.hxInitFg s.payload with
    | error e => simp [hp, hd, bind, Except.bind] at h
    | ok px =>
      simp only [hp, hd, bind, Except.bind] at h
      exact ⟨f, px, rfl, hd, (Except.ok.inj h).symm⟩

/-- What DEC.COPYRECT can do on OK (R185). -/
theorem decCopyrect_eq_ok {s t : State} (h : decCopyrect s = .ok t) :
    s.inLen.toNat ≤ s.params.inSize ∧ 4 ≤ s.inLen.toNat ∧
      t = { s with srcX := BitVec.ofNat 32 (be16At s.payload 0), srcY := BitVec.ofNat 32 (be16At s.payload 2) } := by
  unfold decCopyrect at h
  cases hc : checkInLen s with
  | error e => simp [hc, bind, Except.bind] at h
  | ok u =>
    cases hn : need s.payload 0 4 with
    | error e => simp [hc, hn, decodeCopyrect, bind, Except.bind] at h
    | ok u =>
      have hl := need_eq_ok.1 hn
      simp only [hc, hn, decodeCopyrect, bind, Except.bind] at h
      exact ⟨checkInLen_eq_ok.1 hc, by simpa using hl, (Except.ok.inj h).symm⟩

/-! ## The MX commands -/

/-- What MX.MODPOW can do on OK (R143). -/
theorem mxModpow_eq_ok {s t : State} (h : mxModpow s = .ok t) :
    ∃ a b m, mxOperand s .mxA s.mxAlen = .ok a ∧ mxOperand s .mxB s.mxBlen = .ok b ∧
      mxOperand s .mxM s.mxMlen = .ok m ∧ mxWriteBack s (modPow a b m) = .ok t := by
  unfold mxModpow at h
  cases ha : mxOperand s .mxA s.mxAlen with
  | error e => simp [ha, bind, Except.bind] at h
  | ok a =>
    cases hb : mxOperand s .mxB s.mxBlen with
    | error e => simp [ha, hb, bind, Except.bind] at h
    | ok b =>
      cases hm : mxOperand s .mxM s.mxMlen with
      | error e => simp [ha, hb, hm, bind, Except.bind] at h
      | ok m => exact ⟨a, b, m, rfl, rfl, rfl, by simpa [ha, hb, hm, bind, Except.bind] using h⟩

/-- What MX.MOD can do on OK (R144). -/
theorem mxMod_eq_ok {s t : State} (h : mxMod s = .ok t) :
    ∃ a m, mxOperand s .mxA s.mxAlen = .ok a ∧ mxOperand s .mxM s.mxMlen = .ok m ∧ m ≠ 0 ∧
      mxWriteBack s (modulo a m) = .ok t := by
  unfold mxMod at h
  cases ha : mxOperand s .mxA s.mxAlen with
  | error e => simp [ha, bind, Except.bind] at h
  | ok a =>
    cases hm : mxOperand s .mxM s.mxMlen with
    | error e => simp [ha, hm, bind, Except.bind] at h
    | ok m =>
      by_cases hz : m = 0
      · simp [ha, hm, hz, bind, Except.bind] at h
      · exact ⟨a, m, rfl, rfl, hz, by simpa [ha, hm, hz, bind, Except.bind] using h⟩

/-- What MX.MUL can do on OK (R145). -/
theorem mxMul_eq_ok {s t : State} (h : mxMul s = .ok t) :
    ∃ a b, mxOperand s .mxA s.mxAlen = .ok a ∧ mxOperand s .mxB s.mxBlen = .ok b ∧
      mxWriteBack s (bigMul a b) = .ok t := by
  unfold mxMul at h
  cases ha : mxOperand s .mxA s.mxAlen with
  | error e => simp [ha, bind, Except.bind] at h
  | ok a =>
    cases hb : mxOperand s .mxB s.mxBlen with
    | error e => simp [ha, hb, bind, Except.bind] at h
    | ok b => exact ⟨a, b, rfl, rfl, by simpa [ha, hb, bind, Except.bind] using h⟩

/-! ## The address map -/

theorem wordAt_offset (r : WordReg) : wordAt r.offset = some r := by cases r <;> rfl

theorem offset_of_wordAt {a : Nat} {r : WordReg} (h : wordAt a = some r) : r.offset = a := by
  simpa using List.find?_some h

/-- The buffer that `bufAt` finds holds the offset. -/
theorem holds_of_bufAt {p : Params} {a : Nat} {b : Buf} (h : bufAt p a = some b) :
    b.base ≤ a ∧ a < b.base + b.capacity p := by
  simpa [Buf.holds] using List.find?_some h

/-- Every byte-wide location of the map, with the offset it has (R61). -/
theorem byteLocAt_eq_some {p : Params} {a : Nat} {l : ByteLoc} (h : byteLocAt p a = some l) :
    (∃ i : Fin 8, l = .desKey i ∧ a = desKeyBase + i) ∨ (∃ i : Fin 8, l = .desIn i ∧ a = desInBase + i) ∨
      (∃ i : Fin 8, l = .desOut i ∧ a = desOutBase + i) ∨
      ∃ b i, l = .buf b i ∧ i < b.capacity p ∧ a = b.base + i := by
  unfold byteLocAt at h
  split at h
  · rename_i hk
    refine .inl ⟨_, (Option.some.inj h).symm, ?_⟩
    simp only [Fin.val_ofNat]
    omega
  · split at h
    · rename_i hk
      refine .inr (.inl ⟨_, (Option.some.inj h).symm, ?_⟩)
      simp only [Fin.val_ofNat]
      omega
    · split at h
      · rename_i hk
        refine .inr (.inr (.inl ⟨_, (Option.some.inj h).symm, ?_⟩))
        simp only [Fin.val_ofNat]
        omega
      · split at h
        · rename_i b hb
          have := holds_of_bufAt hb
          exact .inr (.inr (.inr ⟨b, a - b.base, (Option.some.inj h).symm, by omega, by omega⟩))
        · simp at h

/-! ## The port -/

/-- A transaction leaves every field but the response unchanged, or is a write that the port took (R64, R68). -/
theorem portStep_cases (s : State) (op : PortOp) :
    (∃ r, portStep s op = { s with resp := some r }) ∨
      (∃ a v r, op = .write32 a v ∧ wordAt a.toNat = some r ∧
        portStep s op = { (if s.busy then s.dropWrite else r.write s v) with resp := some .written }) ∨
      ∃ a v l, op = .write8 a v ∧ byteLocAt s.params a.toNat = some l ∧
        portStep s op = { (if s.busy then s.dropWrite else l.write s v) with resp := some .written } := by
  cases op with
  | read8 a =>
    left
    simp only [portStep, portRead8]
    cases byteLocAt s.params a.toNat <;> exact ⟨_, rfl⟩
  | read32 a =>
    left
    simp only [portStep, portRead32]
    cases wordAt a.toNat <;> exact ⟨_, rfl⟩
  | write8 a v =>
    simp only [portStep, portWrite8]
    cases h : byteLocAt s.params a.toNat with
    | none => exact .inl ⟨_, rfl⟩
    | some l => exact .inr (.inr ⟨a, v, l, rfl, h, rfl⟩)
  | write32 a v =>
    simp only [portStep, portWrite32]
    cases h : wordAt a.toNat with
    | none => exact .inl ⟨_, rfl⟩
    | some r => exact .inr (.inl ⟨a, v, r, rfl, h, rfl⟩)

end Sys2Proof.Machine
end

