-- ==== Sys2Proof/Laws/Bits.lean ====
section
/-! SUPPORT. The bit strings of the DES unit and the numbers of the MX unit: what `permute` does to each bit, and the
basic laws of big-endian numbers. -/

namespace Sys2Proof.Machine

/-! ## Bit strings -/

theorem foldBits_lt (g : Nat → Bool) (ts : List Nat) (acc : Nat) :
    ts.foldl (fun acc t => 2 * acc + (g t).toNat) acc < (acc + 1) * 2 ^ ts.length := by
  induction ts generalizing acc with
  | nil => simp
  | cons t ts ih =>
    have h := ih (2 * acc + (g t).toNat)
    have hb : (g t).toNat ≤ 1 := Bool.toNat_le _
    calc _ < (2 * acc + (g t).toNat + 1) * 2 ^ ts.length := h
      _ ≤ (2 * (acc + 1)) * 2 ^ ts.length := Nat.mul_le_mul_right _ (by omega)
      _ = _ := by rw [List.length_cons, Nat.pow_succ]; ring

theorem foldBits_testBit (g : Nat → Bool) (ts : List Nat) (acc i : Nat) (h : i < ts.length) :
    (ts.foldl (fun acc t => 2 * acc + (g t).toNat) acc).testBit (ts.length - 1 - i) = g ts[i] := by
  induction ts using List.reverseRecOn generalizing i with
  | nil => simp at h
  | append_singleton ts t ih =>
    simp only [List.foldl_append, List.foldl_cons, List.foldl_nil, List.length_append, List.length_singleton,
      Nat.add_sub_cancel]
    by_cases hi : i < ts.length
    · obtain ⟨k, hk⟩ : ∃ k, ts.length - i = k + 1 := ⟨ts.length - i - 1, by omega⟩
      have hk' : ts.length - 1 - i = k := by omega
      rw [hk, Nat.testBit_succ, List.getElem_append_left hi, ← ih i hi, hk']
      congr 1
      cases g t
      · simp
      · simp
        omega
    · have hi' : i = ts.length := by simp at h; omega
      subst hi'
      cases hg : g t <;> simp [Nat.testBit_zero, hg, Nat.add_mod]

/-- Bit i + 1 of a permuted string is the bit that the table names (R9). -/
theorem permute_getMsbD {n m : Nat} (table : List Nat) (x : BitVec n) (hm : table.length = m) (i : Nat)
    (h : i < m) : (permute m table x).getMsbD i = x.getMsbD (table[i]'(by omega) - 1) := by
  subst hm
  have hlt := foldBits_lt (fun t => x.getMsbD (t - 1)) table 0
  simp only [Nat.zero_add, Nat.one_mul] at hlt
  rw [BitVec.getMsbD_eq_getLsbD]
  simp only [h, decide_true, Bool.true_and, permute, BitVec.getLsbD_ofNat]
  rw [foldBits_testBit (fun t => x.getMsbD (t - 1)) table 0 i h]
  simp
  omega

/-! ## Big-endian numbers -/

/-- The digits of `xs` count `256 ^ ys.length` each (the power stands first: a product with a large literal as its second
factor is unfolded in unary by the kernel). -/
theorem natOf_append (xs ys : List Byte) : natOf (xs ++ ys) = 256 ^ ys.length * natOf xs + natOf ys := by
  have h (ys : List Byte) (acc : Nat) :
      ys.foldl (fun acc b => 256 * acc + b.toNat) acc = 256 ^ ys.length * acc + natOf ys := by
    induction ys generalizing acc with
    | nil => simp [natOf]
    | cons y ys ih =>
      simp only [natOf, List.foldl_cons, List.length_cons] at *
      rw [ih, ih (256 * 0 + y.toNat), Nat.pow_succ]
      ring
  rw [natOf, List.foldl_append, h]
  rfl

@[simp] theorem natOf_nil : natOf [] = 0 := rfl

theorem natOf_singleton (b : Byte) : natOf [b] = b.toNat := by simp [natOf]

theorem natOf_pair (a b : Byte) : natOf [a, b] = 256 * a.toNat + b.toNat := by simp [natOf]

theorem natOf_four (a b c d : Byte) :
    natOf [a, b, c, d] = 256 * (256 * (256 * a.toNat + b.toNat) + c.toNat) + d.toNat := by
  have h := natOf_append [a, b] [c, d]
  rw [natOf_pair, natOf_pair] at h
  generalize a.toNat = x, b.toNat = y, c.toNat = z, d.toNat = w at *
  have key : ∀ n : Nat, n = 256 ^ [c, d].length * (256 * x + y) + (256 * z + w) →
      n = 256 * (256 * (256 * x + y) + z) + w := by
    intro n hn
    simp only [List.length_cons, List.length_nil, Nat.zero_add, Nat.reduceAdd, Nat.reducePow] at hn
    omega
  exact key _ h

/-- The value of n bytes is below 256^n. -/
theorem natOf_lt (bs : List Byte) : natOf bs < 256 ^ bs.length := by
  induction bs using List.reverseRecOn with
  | nil => simp
  | append_singleton bs b ih =>
    have hb := b.isLt
    simp only [natOf_append, natOf_singleton, List.length_append, List.length_singleton, pow_succ]
    omega

end Sys2Proof.Machine
end

