-- ==== Sys2Proof/Laws/Hextile.lean ====
section
/-! SUPPORT. What each part of a Hextile tile can do: when it goes on, and the tile-loop state it then leaves. -/

namespace Sys2Proof.Machine

theorem hexRawTile_eq_ok {f : PixelFormat} {bs : List Byte} {tx ty tw th : Nat} {st st' : HexState} :
    hexRawTile f bs tx ty tw th st = .ok st' ↔
      st.cur + tw * th * f.bpp ≤ bs.length ∧
        st' = { st with
          cur := st.cur + tw * th * f.bpp
          px := fun col row =>
            if tx ≤ col ∧ col < tx + tw ∧ ty ≤ row ∧ row < ty + th then
              pixAt f bs (st.cur + ((row - ty) * tw + (col - tx)) * f.bpp)
            else st.px col row } := by
  unfold hexRawTile need
  by_cases h : st.cur + tw * th * f.bpp > bs.length
  · rw [if_pos h]
    exact ⟨nofun, fun h' => absurd h'.1 (by omega)⟩
  · rw [if_neg h]
    exact ⟨fun e => ⟨by omega, (Except.ok.inj e).symm⟩, fun e => e.2 ▸ rfl⟩

theorem hexBackground_eq_ok {f : PixelFormat} {bs : List Byte} {specified : Bool} {st st' : HexState} :
    hexBackground f bs specified st = .ok st' ↔
      (specified = true → st.cur + f.bpp ≤ bs.length) ∧
        st' = if specified then { st with bg := pixAt f bs st.cur, cur := st.cur + f.bpp } else st := by
  cases specified
  · exact ⟨fun e => ⟨nofun, (Except.ok.inj e).symm⟩, fun e => e.2 ▸ rfl⟩
  · unfold hexBackground readPix need
    by_cases h : st.cur + f.bpp > bs.length
    · simp only [if_pos h]
      exact ⟨nofun, fun h' => absurd (h'.1 trivial) (by omega)⟩
    · simp only [if_neg h]
      exact ⟨fun e => ⟨fun _ => by omega, (Except.ok.inj e).symm⟩, fun e => e.2 ▸ rfl⟩

theorem hexForeground_eq_ok {f : PixelFormat} {bs : List Byte} {specified : Bool} {st st' : HexState} :
    hexForeground f bs specified st = .ok st' ↔
      (specified = true → st.cur + f.bpp ≤ bs.length) ∧
        st' = if specified then { st with fg := pixAt f bs st.cur, cur := st.cur + f.bpp } else st := by
  cases specified
  · exact ⟨fun e => ⟨nofun, (Except.ok.inj e).symm⟩, fun e => e.2 ▸ rfl⟩
  · unfold hexForeground readPix need
    by_cases h : st.cur + f.bpp > bs.length
    · simp only [if_pos h]
      exact ⟨nofun, fun h' => absurd (h'.1 trivial) (by omega)⟩
    · simp only [if_neg h]
      exact ⟨fun e => ⟨fun _ => by omega, (Except.ok.inj e).symm⟩, fun e => e.2 ▸ rfl⟩

theorem hexColour_eq_ok {f : PixelFormat} {bs : List Byte} {coloured : Bool} {st : HexState} {c : Rgba × Nat} :
    hexColour f bs coloured st = .ok c ↔
      (coloured = true → st.cur + f.bpp ≤ bs.length) ∧
        c = if coloured then (pixAt f bs st.cur, st.cur + f.bpp) else (st.fg, st.cur) := by
  cases coloured
  · exact ⟨fun e => ⟨nofun, (Except.ok.inj e).symm⟩, fun e => e.2 ▸ rfl⟩
  · unfold hexColour readPix need
    by_cases h : st.cur + f.bpp > bs.length
    · simp only [if_pos h]
      exact ⟨nofun, fun h' => absurd (h'.1 trivial) (by omega)⟩
    · simp only [if_neg h]
      exact ⟨fun e => ⟨fun _ => by omega, (Except.ok.inj e).symm⟩, fun e => e.2 ▸ rfl⟩

/-- A fill changes the pixels of its area and no other. -/
theorem Canvas.fill_inside {px : Canvas} {x y w h : Nat} {c : Rgba} {col row : Nat}
    (hin : x ≤ col ∧ col < x + w ∧ y ≤ row ∧ row < y + h) : px.fill x y w h c col row = c := if_pos hin

theorem Canvas.fill_outside {px : Canvas} {x y w h : Nat} {c : Rgba} {col row : Nat}
    (hout : ¬(x ≤ col ∧ col < x + w ∧ y ≤ row ∧ row < y + h)) : px.fill x y w h c col row = px col row := if_neg hout

end Sys2Proof.Machine
end

