-- ==== Sys2Proof/Laws/PerInstr.lean ====
section
/-! SUPPORT. The family EncodesLegally: the word of a command is legal (R82, R84), one lemma per command. -/

namespace Sys2Proof.Laws.EncodesLegally

/-- The fields of the command's word pass every check of R84. -/
def Statement (i : Instr) : Prop := (CommandFields.ofWord (encode i)).wf = true

theorem nop : Statement .nop := by unfold Statement; decide

theorem clear : Statement .clear := by unfold Statement; decide

theorem desEnc (kr : Bool) : Statement (.desEnc kr) := by cases kr <;> (unfold Statement; decide)

theorem mxModpow : Statement .mxModpow := by unfold Statement; decide

theorem mxMod : Statement .mxMod := by unfold Statement; decide

theorem mxMul : Statement .mxMul := by unfold Statement; decide

theorem pxConv : Statement .pxConv := by unfold Statement; decide

theorem decRaw : Statement .decRaw := by unfold Statement; decide

theorem decCopyrect : Statement .decCopyrect := by unfold Statement; decide

theorem decRre : Statement .decRre := by unfold Statement; decide

theorem decHextile : Statement .decHextile := by unfold Statement; decide

end Sys2Proof.Laws.EncodesLegally
end

