-- ==== Sys2Proof/Machine/Script.lean ====
section
/-! DEFINITION. Mnemonics (R92), host scripts and their pseudo-instructions (R93), and the host programs that the spec
fixes at the boundary with the authentication handlers (R118, R119, R147). A script is a list of events with, where
the script states one, the response expected. -/

namespace Sys2Proof.Machine

/-- The assembler name of a command (R82, R92). -/
def mnemonic (i : Instr) : String :=
  match i with
  | .nop => "NOP"
  | .clear => "CLEAR"
  | .desEnc false => "DES.ENC"
  | .desEnc true => "DES.ENC.KR"
  | .mxModpow => "MX.MODPOW"
  | .mxMod => "MX.MOD"
  | .mxMul => "MX.MUL"
  | .pxConv => "PX.CONV"
  | .decRaw => "DEC.RAW"
  | .decCopyrect => "DEC.COPYRECT"
  | .decRre => "DEC.RRE"
  | .decHextile => "DEC.HEXTILE"

/-- The byte-wide names a script can use (R93). -/
inductive Region where
  | desKey
  | desIn
  | desOut
  | buffer (b : Buf)
  deriving DecidableEq, Repr

/-- The offset of byte 0 of a region or buffer (R61). -/
def Region.base (r : Region) : Nat :=
  match r with
  | .desKey => desKeyBase
  | .desIn => desInBase
  | .desOut => desOutBase
  | .buffer b => b.base

/-- One line of a script (R93): a step, and the response the script states for it, if it states one. -/
structure Line where
  event : Event
  expected : Option PortResp
  deriving DecidableEq, Repr

/-- `WR32 NAME, v` (R93); the script assumes OK. -/
def wr32 (r : WordReg) (v : Word) : Line := ⟨.port (.write32 (BitVec.ofNat 27 r.offset) v), some .written⟩

/-- `WR8 NAME[i], v` (R93). -/
def wr8 (r : Region) (i : Nat) (v : Byte) : Line := ⟨.port (.write8 (BitVec.ofNat 27 (r.base + i)) v), some .written⟩

/-- `RD32 NAME => v` (R93). -/
def rd32 (r : WordReg) (v : Word) : Line := ⟨.port (.read32 (BitVec.ofNat 27 r.offset)), some (.word v)⟩

/-- `RD8 NAME[i]` with an expected byte (R93). -/
def rd8 (r : Region) (i : Nat) (v : Byte) : Line := ⟨.port (.read8 (BitVec.ofNat 27 (r.base + i))), some (.byte v)⟩

/-- `WAIT` (R93): the polls before the engine's step change nothing (R68), so the model takes the engine's step and
then the poll that reads BUSY = 0 (log 13). -/
def wait : List Line := [⟨.engine, none⟩, ⟨.port (.read32 (BitVec.ofNat 27 (WordReg.offset .status))), none⟩]

/-- `LOAD NAME, b0 b1 ...` (R93). -/
def load (r : Region) (bs : List Byte) : List Line := bs.zipIdx.map fun bi => wr8 r bi.2 bi.1

/-- `RUN mnemonic` (R93). -/
def run (i : Instr) : List Line := wr32 .cmd (encode i) :: wait

/-- `EXPECT NAME[a..b) = bytes` (R93). -/
def expect (r : Region) (a : Nat) (bs : List Byte) : List Line := bs.zipIdx.map fun bi => rd8 r (a + bi.2) bi.1

/-- `SETPF` (R93), with the register values of its expansion. -/
def setPf (sel big tc depth rmax gmax bmax rs gs bs : Nat) : List Line :=
  [wr32 .pfCtrl (BitVec.ofNat 32 (sel + 256 * big + 512 * tc + 65536 * depth)),
    wr32 .pfRmax (BitVec.ofNat 32 rmax), wr32 .pfGmax (BitVec.ofNat 32 gmax), wr32 .pfBmax (BitVec.ofNat 32 bmax),
    wr32 .pfShift (BitVec.ofNat 32 (rs + 256 * gs + 65536 * bs))]

/-- `SETRECT x, y, w, h` (R93). -/
def setRect (x y w h : Nat) : List Line :=
  [wr32 .rectX (BitVec.ofNat 32 x), wr32 .rectY (BitVec.ofNat 32 y),
    wr32 .rectW (BitVec.ofNat 32 w), wr32 .rectH (BitVec.ofNat 32 h)]

/-- Runs one line: its event is the next of the system, and its response must be the expected one. -/
def runLine (s : State) (l : Line) : Option State :=
  match step { s with sched := [l.event] } with
  | .next t => if l.expected.isNone || t.resp == l.expected then some t else none
  | .fault _ => none
  | .refused _ => none

/-- Runs a script from `s`; none at the first line whose response is not the expected one. -/
def runScript (s : State) (ls : List Line) : Option State := ls.foldlM runLine s

/-- The eight key bytes of a password (R118): its first eight bytes, padded with zero bytes. -/
def vncKey (password : List Byte) : List Byte := (List.range 8).map fun i => password.getD i 0

/-- The host program of a VNC response (R118, R119): the key, then each half of the challenge as an independent
block under DES.ENC.KR, reading DES_OUT after each. -/
def vncScript (password challenge response : List Byte) : List Line :=
  load .desKey (vncKey password) ++
    load .desIn (slice challenge 0 8) ++ run (.desEnc true) ++ expect .desOut 0 (slice response 0 8) ++
    load .desIn (slice challenge 8 8) ++ run (.desEnc true) ++ expect .desOut 0 (slice response 8 8)

/-- One MX.MODPOW of the Diffie-Hellman step (R147) with the keyLen bytes of the exponent and of the prime, and the
keyLen bytes it leaves in MX_R. -/
def dhScript (base exponent prime result : List Byte) : List Line :=
  load (.buffer .mxA) base ++ [wr32 .mxAlen (BitVec.ofNat 32 base.length)] ++
    load (.buffer .mxB) exponent ++ [wr32 .mxBlen (BitVec.ofNat 32 exponent.length)] ++
    load (.buffer .mxM) prime ++ [wr32 .mxMlen (BitVec.ofNat 32 prime.length)] ++
    [wr32 .mxMinlen (BitVec.ofNat 32 prime.length)] ++ run .mxModpow ++
    [rd32 .mxRlen (BitVec.ofNat 32 prime.length)] ++ expect (.buffer .mxR) 0 result

end Sys2Proof.Machine
end

