-- ==== Sys2Proof/Tests/Slice0.lean ====
section
/-! SUPPORT. The tests: command words written out from R80 and R82, ill-formed terms, one step of every command on a
vector of spec/95_test_vectors.md, and for every statement with hypotheses a witness that meets them. -/

namespace Sys2Proof.Tests

open Sys2Proof Sys2Proof.Machine Sys2Proof.Claims

/-! ## Small states -/

/-- The reset state with zeroed buffers (as after CLEAR). -/
def blank : State := { State.reset with mem := ⟨.zero, []⟩ }

/-- `s` with the bytes `bs` at the start of buffer `b`. -/
def State.withBytes (s : State) (b : Buf) (bs : List Byte) : State := { s with mem := s.mem.writeBytes b.base bs }

/-- `s` with the payload `bs` and IN_LEN its length. -/
def State.withPayload (s : State) (bs : List Byte) : State :=
  { State.withBytes s .inp bs with inLen := BitVec.ofNat 32 bs.length }

/-- `s` with RECT_W and RECT_H. -/
def State.withRect (s : State) (w h : Nat) : State :=
  { s with rectW := BitVec.ofNat 32 w, rectH := BitVec.ofNat 32 h }

/-- The format gray of the vectors. -/
def gray : State := { blank with pfCtrl := 0x00080000 }

/-- The format RGB565 of the vectors. -/
def rgb565 : State :=
  { blank with pfCtrl := 0x00100201, pfRmax := 0x1F, pfGmax := 0x3F, pfBmax := 0x1F, pfShift := 0x0000050B }

/-- `blank` with the operands of the MX commands. -/
def numbers (a b m : List Byte) : State :=
  { State.withBytes (State.withBytes (State.withBytes blank .mxA a) .mxB b) .mxM m with
    mxAlen := BitVec.ofNat 32 a.length, mxBlen := BitVec.ofNat 32 b.length, mxMlen := BitVec.ofNat 32 m.length }

/-- `blank` with the command word `w` accepted. -/
def pending (w : Word) : State := blank.acceptCommand w

/-- A value of the next state, none after a fault or a refusal. -/
def nextIs {α : Type} (f : State → α) (o : Host.Outcome State Fault Refusal) : Option α :=
  match o with
  | .next t => some (f t)
  | .fault _ => none
  | .refused _ => none

/-- ERRCODE and ERRINFO. -/
def errorOf (t : State) : Word × Word := (t.errcode, t.errinfo)

/-! ## Decoding: words written out bit by bit, ZERO (23 bits), KR (1 bit), OP (8 bits) (R80, R82) -/

theorem test_decode_nop : decode 0b00000000000000000000000_0_00000000#32 = .ok .nop := by decide
theorem test_decode_clear : decode 0b00000000000000000000000_0_00000001#32 = .ok .clear := by decide
theorem test_decode_desEnc : decode 0b00000000000000000000000_0_00010000#32 = .ok (.desEnc false) := by decide
theorem test_decode_desEncKr : decode 0b00000000000000000000000_1_00010000#32 = .ok (.desEnc true) := by decide
theorem test_decode_mxModpow : decode 0b00000000000000000000000_0_00100000#32 = .ok .mxModpow := by decide
theorem test_decode_mxMod : decode 0b00000000000000000000000_0_00100001#32 = .ok .mxMod := by decide
theorem test_decode_mxMul : decode 0b00000000000000000000000_0_00100010#32 = .ok .mxMul := by decide
theorem test_decode_pxConv : decode 0b00000000000000000000000_0_00110000#32 = .ok .pxConv := by decide
theorem test_decode_decRaw : decode 0b00000000000000000000000_0_01000000#32 = .ok .decRaw := by decide
theorem test_decode_decCopyrect : decode 0b00000000000000000000000_0_01000001#32 = .ok .decCopyrect := by decide
theorem test_decode_decRre : decode 0b00000000000000000000000_0_01000010#32 = .ok .decRre := by decide
theorem test_decode_decHextile : decode 0b00000000000000000000000_0_01000011#32 = .ok .decHextile := by decide

/-- Section 7.1 of the vectors: the three ways to be illegal, in the order of R94. -/
theorem test_decode_illegal :
    decode 0x80000220#32 = .error .reservedBits ∧ decode 0x00000002#32 = .error .unknownOp ∧
      decode 0x00000102#32 = .error .unknownOp ∧ decode 0x00000120#32 = .error .reservedKr := by decide

theorem test_decodeTableWord : decodeTableWord 32 0x110 = some (.desEnc true) ∧ decodeTableWord 32 0x44 = none := by
  decide

/-! ## Well-formedness: each check refuses an ill-formed term -/

theorem test_wf_zero : (CommandFields.mk 0x00 false 1).wf = false ∧ (CommandFields.mk 0x00 false 1).zeroOk = false := by
  decide
theorem test_wf_op : (CommandFields.mk 0x02 false 0).wf = false ∧ (CommandFields.mk 0x02 false 0).opOk = false := by
  decide
theorem test_wf_kr : (CommandFields.mk 0x20 true 0).wf = false ∧ (CommandFields.mk 0x20 true 0).krOk = false := by
  decide
theorem test_wf_inSize : { Config.reference with inSize := 0 }.wf = false ∧
    { Config.reference with inSize := 0 }.inSizeOk = false := by decide
theorem test_wf_outSize : { Config.reference with outSize := 6 }.wf = false ∧
    { Config.reference with outSize := 6 }.outSizeOk = false := by decide
theorem test_wf_mxSize : { Config.reference with mxSize := 65537 }.wf = false ∧
    { Config.reference with mxSize := 65537 }.mxSizeOk = false := by decide

/-! ## One step of each command -/

/-- R230, worked example. -/
theorem test_nop : nextIs State.status (exec .nop (pending 0)) = some 2 := by decide

/-- R231: a written byte is gone, OVR too. -/
theorem test_clear :
    nextIs (fun t => (t.bufByte .mxR 3, t.inLen, t.status))
      (exec .clear { State.withBytes (pending 1) .mxR [1, 2, 3, 4] with inLen := 5, status := 9 }) = some (0, 0, 2) := by
  decide

/-- Section 2.3 of the vectors. -/
theorem test_desEnc :
    nextIs State.desOut (exec (.desEnc false)
      { blank with
        desKey := #v[0x13, 0x34, 0x57, 0x79, 0x9B, 0xBC, 0xDF, 0xF1]
        desIn := #v[0x01, 0x23, 0x45, 0x67, 0x89, 0xAB, 0xCD, 0xEF] }) =
      some #v[0x85, 0xE8, 0x13, 0x54, 0x0F, 0x0A, 0xB4, 0x05] := by decide +kernel

/-- Section 2.6 of the vectors, "password". -/
theorem test_desEncKr :
    nextIs State.desOut (exec (.desEnc true)
      { blank with desKey := #v[0x70, 0x61, 0x73, 0x73, 0x77, 0x6F, 0x72, 0x64] }) =
      some #v[0xFF, 0x97, 0x50, 0x2E, 0x94, 0x22, 0xF0, 0x89] := by decide +kernel

/-- Section 3.1, row 2: left-padded to MX_MINLEN. -/
theorem test_mxModpow :
    nextIs (fun t => (t.mxRlen, t.bufBytes .mxR 4))
      (exec .mxModpow { numbers [0x02] [0x0A] [0x03, 0xE9] with mxMinlen := 4 }) =
      some (4, [0x00, 0x00, 0x00, 0x17]) := by decide +kernel

/-- Section 3.1, row 9: modulus 1 and exponent 0 give 1. -/
theorem test_mxModpow_one : nextIs (fun t => t.bufBytes .mxR 1) (exec .mxModpow (numbers [7] [] [1])) = some [1] := by
  decide +kernel

/-- Section 3.2, row 6. -/
theorem test_mxMod :
    nextIs (fun t => (t.mxRlen, t.bufBytes .mxR 4))
      (exec .mxMod (numbers (List.replicate 12 0xFF) [] [0x01, 0x00, 0x00, 0x00, 0x01])) =
      some (4, [0xFF, 0xFF, 0xFF, 0xFF]) := by decide +kernel

/-- Section 3.2, row 8. -/
theorem test_mxMod_zero : nextIs errorOf (exec .mxMod (numbers [0x64] [] [0x00])) = some (5, 0) := by decide +kernel

/-- Section 3.3, row 1. -/
theorem test_mxMul :
    nextIs (fun t => t.bufBytes .mxR 8) (exec .mxMul (numbers [0xFF, 0xFF, 0xFF, 0xFF] [0xFF, 0xFF, 0xFF, 0xFF] [])) =
      some [0xFF, 0xFF, 0xFF, 0xFE, 0x00, 0x00, 0x00, 0x01] := by decide +kernel

/-- Section 4.2, row 1. -/
theorem test_pxConv :
    nextIs (fun t => (t.outLen, t.bufBytes .out 8)) (exec .pxConv (State.withPayload rgb565 [0x1F, 0xF8, 0x10, 0x84])) =
      some (8, [0xFF, 0x00, 0xFF, 0xFF, 0x83, 0x81, 0x83, 0xFF]) := by decide +kernel

/-- Section 4.2, row 4: a trailing partial pixel. -/
theorem test_pxConv_partial :
    nextIs errorOf (exec .pxConv (State.withPayload rgb565 [0x1F, 0xF8, 0x10])) = some (2, 2) := by decide +kernel

/-- Section 5.1, row 9: row-major order. -/
theorem test_decRaw :
    nextIs (fun t => (t.bufBytes .out 4, outPixel t 3))
      (exec .decRaw (State.withRect (State.withPayload gray [0x0A, 0x0B, 0x0C, 0x0D, 0x0E, 0x0F]) 3 2)) =
      some ([0x0A, 0x0A, 0x0A, 0xFF], ⟨0x0D, 0x0D, 0x0D, 0xFF⟩) := by decide +kernel

/-- Section 5.1, row 3: short input. -/
theorem test_decRaw_short :
    nextIs errorOf (exec .decRaw (State.withRect (State.withPayload rgb565 [0x1F, 0xF8, 0x10]) 2 1)) = some (2, 0) := by
  decide +kernel

/-- Section 5.2, row 1. -/
theorem test_decCopyrect :
    nextIs (fun t => (t.srcX, t.srcY, t.outLen)) (exec .decCopyrect (State.withPayload gray [0x00, 0x64, 0x00, 0xC8])) =
      some (100, 200, 0) := by decide +kernel

/-- Section 5.3, row 13: the later record wins. -/
theorem test_decRre :
    nextIs (fun t => (List.range 6).map fun k => (outPixel t k).r)
      (exec .decRre (State.withRect (State.withPayload gray
        [0, 0, 0, 2, 0x10, 0x20, 0, 0, 0, 0, 0, 3, 0, 2, 0x30, 0, 1, 0, 0, 0, 1, 0, 1]) 3 2)) =
      some [0x20, 0x30, 0x20, 0x20, 0x20, 0x20] := by decide +kernel

/-- Section 5.3, row 2: a partial record is not applied and is no error. -/
theorem test_decRre_partial :
    nextIs (fun t => (t.err, (List.range 12).map fun k => (outPixel t k).r))
      (exec .decRre (State.withRect (State.withPayload gray
        [0, 0, 0, 3, 0x10, 0x80, 0, 1, 0, 0, 0, 2, 0, 2, 0xFF, 0, 3, 0, 2, 0, 5]) 4 3)) =
      some (false, [0x10, 0x80, 0x80, 0x10, 0x10, 0x80, 0x80, 0x10, 0x10, 0x10, 0x10, 0x10]) := by decide +kernel

/-- Section 6.1, row 7. -/
theorem test_decHextile :
    nextIs (fun t => (List.range 6).map fun k => outPixel t k)
      (exec .decHextile (State.withRect (State.withPayload rgb565 [0x0E, 0x1F, 0x00, 0x00, 0xF8, 0x01, 0x10, 0x10]) 3 2)) =
      some [⟨0, 0, 255, 255⟩, ⟨255, 0, 0, 255⟩, ⟨255, 0, 0, 255⟩, ⟨0, 0, 255, 255⟩, ⟨0, 0, 255, 255⟩, ⟨0, 0, 255, 255⟩] := by
  decide +kernel

/-- Section 6.4, row 8: `wh` of the first subrectangle is missing. -/
theorem test_decHextile_truncated :
    nextIs errorOf (exec .decHextile (State.withRect (State.withPayload gray [0x1A, 0x77, 0x01, 0xCC, 0x00]) 2 2)) =
      some (2, 5) := by decide +kernel

/-- Step runs a placed command word as the first instruction (log 11). -/
theorem test_withFetchWord : nextIs State.status (step (State.reset.withFetchWord 32 0x41)) = some 6 := by decide +kernel

/-- Section 7.3 of the vectors: widths and holes at the port. -/
theorem test_port_errors :
    (portStep blank (.read8 0x008)).resp = some .error ∧ (portStep blank (.read32 0x100)).resp = some .error ∧
      (portStep blank (.read32 0x094)).resp = some .error ∧ (portStep blank (.read8 0x10FFFF)).resp = some .error ∧
      (portStep blank (.read32 0x000)).resp = some (.word 0x53423037) := by decide +kernel

/-! ## Witnesses: hypotheses of the statements that something meets -/

theorem blank_inv : blank.Inv where
  params := by decide
  lifecycle := ⟨by decide, by decide, by decide, by decide⟩
  memory := ⟨by decide, by decide⟩
  lengths := ⟨by decide, by decide, by decide⟩
  reserved := by intro r; cases r <;> decide

theorem witness_DecodeAndEncodeAgree : (Instr.desEnc true).wf = true ∧ decode 0x00000110#32 = .ok (.desEnc true) := by
  decide

theorem witness_IllegalWordsAreAcceptedAndFail :
    (IllegalWord 0x00000200#32 ∧ IllegalWord 0x80000000#32) ∧ IllegalWord 0x00000002#32 ∧ IllegalWord 0x00000101#32 ∧
      blank.busy = false ∧ (pending 0x00000101#32).busy = true ∧ IllegalWord (pending 0x00000101#32).pend := by
  unfold IllegalWord zeroField opField
  decide

theorem witness_EngineJudgesThePendingWord :
    (zeroField (pending 0x00000200#32).pend ≠ 0 ∧ zeroField (pending 0x80000000#32).pend ≠ 0) ∧
      (zeroField (pending 0x144).pend = 0 ∧ opField (pending 0x144).pend ∉ opcodes) ∧
      (zeroField (pending 0x100).pend = 0 ∧ opField (pending 0x100).pend ∈ opcodes ∧
        (pending 0x100).pend.getLsbD 8 = true ∧ opField (pending 0x100).pend ≠ 0x10#8) ∧
      (opField (pending 0x10).pend = 0x10#8 ∧ opField (pending 0x110).pend = 0x10#8) ∧ (pending 0x144).busy = true := by
  unfold zeroField opField
  decide

/-- Every opcode of R83 is the OP field of an accepted word with ZERO and KR 0. -/
theorem witness_EngineJudgesThePendingWord_opcodes :
    ∀ op ∈ opcodes, decode (op.setWidth 32) ≠ .error .unknownOp ∧ opField (op.setWidth 32) = op := by
  unfold opField
  decide

theorem witness_StepRunsTheDecodedCommand :
    ((pending 0x21).busy = true ∧ decode (pending 0x21).pend = .ok .mxMod ∧ (pending 0x21).sched = []) ∧
      ({ pending 0x21 with sched := [.engine, .engine] } : State).sched = .engine :: [.engine] := by decide

theorem witness_AcceptanceLatchesTheCommand :
    ({ blank with status := 0x0000000E, sched := [.port (.write32 0x004 0x41)] } : State).busy = false ∧
      ({ blank with status := 0x0000000E, sched := [.port (.write32 0x004 0x41)] } : State).sched =
        .port (.write32 0x004#27 0x41#32) :: [] := by decide

theorem witness_WritesWhileBusyAreDropped :
    (pending 0).busy = true ∧ wordAt (0x004#27).toNat = some .cmd ∧ wordAt (0x090#27).toNat = some .mxRlen ∧
      byteLocAt (pending 0).params (0x100#27).toNat = some (.desKey 0) ∧
      byteLocAt (pending 0).params (0x4000000#27).toNat = some (.buf .out 0) ∧
      (blank.busy = false ∧ wordAt (0x008#27).toNat = some .status ∧
        byteLocAt blank.params (0x117#27).toNat = some (.desOut 7)) ∧ (WordReg.ctrl ≠ .status ∧ WordReg.ctrl ≠ .errcode ∧ WordReg.ctrl ≠ .errinfo) := by decide

theorem witness_EngineStepAlwaysCompletes :
    (pending 0).busy = true ∧ blank.busy = false ∧ decode (pending 0).pend ≠ .ok .clear ∧
      nextIs State.err (engineStep (pending 0)) = some false := by decide

theorem witness_ErrorCompletionChangesNothingElse :
    (pending 2).busy = true ∧ engineStep (pending 2) = .next ((pending 2).completeErr ⟨.cmd, 2⟩) ∧
      ((pending 2).completeErr ⟨.cmd, 2⟩).err = true := ⟨by decide, rfl, by decide⟩

theorem witness_ErrinfoByCode :
    ((pending 2).busy = true ∧ nextIs State.errcode (engineStep (pending 2)) = some 1) ∧
      ((pending 0x41).busy = true ∧ nextIs State.errcode (engineStep (pending 0x41)) = some 2) ∧
      (pending 0x21).busy = true ∧ nextIs State.errcode (engineStep (pending 0x21)) = some 5 := by decide +kernel

theorem witness_PendingCommandEndsWithinTheSchedule :
    ({ pending 0 with sched := [.port (.read32 0x008)] } : State).busy = true := by decide

theorem witness_BusyTrafficDoesNotReachTheCommand :
    (pending 0).busy = true ∧ engineStep (pending 0) = .next (pending 0).completeOk ∧
      engineStep ([PortOp.write32 0x040 7].foldl portStep (pending 0)) =
        .next ([PortOp.write32 0x040 7].foldl portStep (pending 0)).completeOk := ⟨by decide, rfl, rfl⟩

theorem witness_EveryStepKeepsTheInvariant :
    blank.Inv ∧ step { blank with sched := [.port (.write32 0x004 0)] } =
      .next { blank with pend := 0, status := 1, resp := some .written } := ⟨blank_inv, rfl⟩

theorem witness_ResetEventGivesTheResetState :
    ({ pending 1 with sched := [.reset .zero [(0x1000000, 7)]] } : State).sched =
        .reset .zero [(0x1000000, 7)] :: [] ∧
      (∀ c ∈ [((0x1000000, 7) : Host.Cell)], c.1 ≠ 0x1000001) ∧
      (∀ d ∈ [((0x1000000, 7) : Host.Cell)], d.1 = 0x1000000 → d = (0x1000000, 7)) ∧
      (bufAt (pending 1).params 0x1000000).isSome = true := by decide

theorem witness_CapacityRegistersAreConstant : blank.busy = false ∧ step blank = .next blank := ⟨by decide, rfl⟩

theorem witness_BusErrorsExactly :
    (∀ x ∈ [0x00, 0x20, 0x40, 0x70, 0x80, 0x90], WordMapped x) ∧ (∀ x ∈ [0x02, 0x24, 0x74, 0x94], ¬WordMapped x) ∧
      (∀ x ∈ [0x100, 0x117, 0x0101FF, 0x040000, 0x4000000], ByteMapped Config.reference x) ∧
      ∀ x ∈ [0x008, 0x118, 0x010200, 0x10FFFF], ¬ByteMapped Config.reference x := by
  unfold WordMapped ByteMapped
  decide

theorem witness_RegisterWriteThenRead :
    blank.busy = false ∧ wordAt (0x070#27).toNat = some .pfShift ∧ WordReg.pfShift ≠ .cmd ∧
      WordReg.pfBmax ≠ .pfShift := by decide

theorem witness_StatusWriteClearsDoneAndOvr : ({ blank with status := 0x0000000E } : State).busy = false := by decide

theorem witness_ByteWriteChangesOneLocation :
    blank.params.wf = true ∧ blank.busy = false ∧
      (∀ x ∈ [0x100, 0x107, 0x108, 0x10F, 0x0301FF, 0x110, 0x117, 0x040000, 0x0403FF, 0x4000000],
        ByteMapped blank.params x) ∧ 0x107#27 ≠ 0x100#27 := by
  unfold ByteMapped
  decide

theorem witness_DesKeyIsNeverReadable : blank.busy = false := by decide

theorem witness_IrqIsCleared :
    ({ blank with status := 2, ctrl := 1 } : State).irq = true ∧ ({ blank with status := 2, ctrl := 1 } : State).busy = false ∧
      (2#32).getLsbD 1 = true ∧ (2#32).getLsbD 0 = false := by decide

theorem witness_CompletionRaisesIrq :
    (pending 0).busy = true ∧ engineStep (pending 0) = .next (pending 0).completeOk ∧
      decode (pending 0).pend ≠ .ok .clear := ⟨by decide, rfl, by decide⟩

theorem witness_OperandsSurviveEveryCommandButClear :
    (pending 0).params.wf = true ∧ (pending 0).busy = true ∧ engineStep (pending 0) = .next (pending 0).completeOk ∧
      decode (pending 0).pend ≠ .ok .clear := ⟨by decide, by decide, rfl, by decide⟩

theorem witness_PixelCommandFrame :
    blank.params.wf = true ∧ (∀ i ∈ [Instr.pxConv, .decRaw, .decRre, .decHextile], ConvertsPixels i) ∧
      (nextIs State.err (exec .pxConv gray) = some false ∧ nextIs State.err (exec .decRaw gray) = some false ∧
        nextIs State.err (exec .decHextile gray) = some false) ∧ nextIs State.err (exec .decRre gray) = some true := by
  unfold ConvertsPixels
  decide +kernel

theorem witness_MxCommandFrame :
    blank.params.wf = true ∧
      (nextIs State.err (exec .mxModpow blank) = some false ∧ nextIs State.err (exec .mxMul blank) = some false) ∧
      nextIs State.err (exec .mxMod blank) = some true := by decide +kernel

theorem witness_RegisterCommandFrame :
    exec .nop blank = .next blank.completeOk ∧
      nextIs State.err (exec (.desEnc true) blank) = some false ∧
      nextIs State.err (exec .decCopyrect blank) = some true := ⟨rfl, by decide, by decide⟩

theorem witness_ClearZeroesEverything : (pending 0x40).busy = true := by decide

theorem witness_KeyReversalModifier : (0 : Nat) < 8 ∧ (7 : Nat) < 8 := by decide

theorem witness_ParityBitsAreIgnored :
    (∀ i : Fin 8, (#v[0x12, 0x34, 0x56, 0x78, 0x90, 0xAB, 0xCD, 0xEF] : Bytes8).get i &&& 0xFE#8 =
        (#v[0x13, 0x34, 0x57, 0x79, 0x91, 0xAB, 0xCD, 0xEF] : Bytes8).get i &&& 0xFE#8) ∧
      ∀ i : Fin 8, (#v[0x80, 0, 0, 0, 0, 0, 0, 1] : Bytes8).get i &&& 0x7F#8 =
        (#v[0, 0, 0, 0, 0, 0, 0, 0x81] : Bytes8).get i &&& 0x7F#8 := by decide

theorem witness_DesEncIsDeterministic :
    (blank.desKey = gray.desKey ∧ blank.desIn = gray.desIn) ∧ blank.desKey = #v[0, 0, 0, 0, 0, 0, 0, 0] ∧
      blank.desIn = #v[0, 0, 0, 0, 0, 0, 0, 0] := by decide

theorem witness_NatlenIsLeast : (255 : Nat) < 256 ^ 1 ∧ (0 : Nat) < 256 ^ 0 := by decide

theorem witness_ToBytesBeRoundTrip : (1 : Nat) ≠ 0 := by decide

theorem witness_ModPowByCases : (1 : Nat) ≤ 1 ∧ (2 : Nat) ≤ 2 := by decide

theorem witness_ModpowWritesThePower :
    let s := numbers [0x02] [0x0A] [0x03, 0xE9]
    s.params.wf = true ∧ s.mxAlen.toNat ≤ s.params.mxSize ∧ s.mxBlen.toNat ≤ s.params.mxSize ∧
      s.mxMlen.toNat ≤ s.params.mxSize ∧ ResultFits s (powerTable (operandA s) (operandB s) (operandM s)) := by
  unfold ResultFits
  decide +kernel

theorem witness_ModWritesTheRemainder :
    let s := numbers [0x64] [] [0x07]
    s.params.wf = true ∧ s.mxAlen.toNat ≤ s.params.mxSize ∧ s.mxMlen.toNat ≤ s.params.mxSize ∧ operandM s ≠ 0 ∧
      ResultFits s (operandA s % operandM s) := by
  unfold ResultFits
  decide +kernel

theorem witness_MulWritesTheProduct :
    let s := { numbers [0x03] [0x05] [] with mxMinlen := 1024 }
    s.params.wf = true ∧ s.mxAlen.toNat ≤ s.params.mxSize ∧ s.mxBlen.toNat ≤ s.params.mxSize ∧
      s.mxMinlen.toNat ≤ 2 * s.params.mxSize := by decide +kernel

theorem witness_ZeroModulus :
    let s := numbers [0x07] [0x05] [0x00]
    s.params.wf = true ∧ s.mxAlen.toNat ≤ s.params.mxSize ∧ s.mxBlen.toNat ≤ s.params.mxSize ∧
      s.mxMlen.toNat ≤ s.params.mxSize ∧ operandM s = 0 ∧ s.mxMinlen.toNat ≤ 2 * s.params.mxSize := by decide +kernel

theorem witness_PxConvConvertsEveryPixel :
    let s := State.withPayload rgb565 [0x1F, 0xF8, 0x10, 0x84]
    s.params.wf = true ∧ ¬IllegalFormat s ∧ s.inLen.toNat ≤ s.params.inSize ∧ s.inLen.toNat % bytesPerPixel s = 0 ∧
      4 * (s.inLen.toNat / bytesPerPixel s) ≤ s.params.outSize := by
  unfold IllegalFormat
  decide +kernel

theorem witness_RawConvertsRowMajor :
    let s := State.withRect (State.withPayload gray [1, 2, 3, 4, 5]) 2 2
    s.params.wf = true ∧ ¬IllegalFormat s ∧ s.inLen.toNat ≤ s.params.inSize ∧
      s.rectWidth * s.rectHeight * 4 ≤ s.params.outSize ∧
      s.rectWidth * s.rectHeight * bytesPerPixel s ≤ s.inLen.toNat := by
  unfold IllegalFormat
  decide +kernel

theorem witness_CopyrectReadsTheSource :
    ((State.withPayload gray [0, 0x64, 0, 0xC8]).inLen.toNat ≤ 65536 ∧
        4 ≤ (State.withPayload gray [0, 0x64, 0, 0xC8]).inLen.toNat) ∧
      ((State.withPayload gray [0, 0x64, 0]).inLen.toNat ≤ 65536 ∧
        (State.withPayload gray [0, 0x64, 0]).inLen.toNat < 4) ∧
      ({ gray with inLen := 65537 } : State).params.inSize < ({ gray with inLen := 65537 } : State).inLen.toNat := by
  decide +kernel

/-- Pixel (1, 0) is covered by both records of section 5.3, row 13, pixel (0, 0) by the first alone; with no record
there is no cover. -/
theorem witness_RreLastCoveringRecordWins :
    let s := State.withRect (State.withPayload gray
      [0, 0, 0, 2, 0x10, 0x20, 0, 0, 0, 0, 0, 3, 0, 2, 0x30, 0, 1, 0, 0, 0, 1, 0, 1]) 3 2
    let e := State.withRect (State.withPayload gray [0, 0, 0, 0, 0x42]) 2 2
    (s.params.wf = true ∧ ¬IllegalFormat s ∧ s.inLen.toNat ≤ s.params.inSize ∧
      s.rectWidth * s.rectHeight * 4 ≤ s.params.outSize ∧ 4 + bytesPerPixel s ≤ s.inLen.toNat) ∧
      (rreApplied s = 2 ∧ RreCovers s 1 1 0 ∧ RreCovers s 0 1 0 ∧ RreCovers s 0 0 0 ∧ ¬RreCovers s 1 0 0) ∧
      4 + bytesPerPixel e ≤ e.inLen.toNat ∧ rreApplied e = 0 := by
  unfold IllegalFormat RreCovers
  decide +kernel

theorem witness_EmptyRectangles :
    let s := State.withRect (State.withPayload gray [0, 0, 0, 1, 0x77]) 0 7
    let e := State.withRect (State.withPayload gray [0, 0, 0, 1]) 7 0
    (s.params.wf = true ∧ ¬IllegalFormat s ∧ s.inLen.toNat ≤ s.params.inSize ∧ s.rectWidth = 0 ∧
      4 + bytesPerPixel s ≤ s.inLen.toNat) ∧
      e.params.wf = true ∧ ¬IllegalFormat e ∧ e.inLen.toNat ≤ e.params.inSize ∧ e.rectHeight = 0 ∧
      e.inLen.toNat < 4 + bytesPerPixel e := by
  unfold IllegalFormat
  decide +kernel

/-- The gray format of the tile witnesses. -/
def grayFormat : PixelFormat := gray.formatWith 1

/-- A tile-loop state at the start of the payload. -/
def tileStart (px : Canvas) : HexState := ⟨0, ⟨0, 0, 0, 255⟩, ⟨0, 0, 0, 255⟩, px⟩

/-- A tile-loop state in the middle of a payload, at offset 1. -/
def midway : HexState := ⟨1, ⟨1, 1, 1, 255⟩, ⟨2, 2, 2, 255⟩, fun _ _ => ⟨9, 9, 9, 9⟩⟩

/-- The second tile of an 18 by 2 rectangle, 2 by 2 pixels at (16, 0): RAW, its data to the last byte. -/
theorem witness_HextileRawTile_anywhere :
    tileFlag [0x00, 0xFF, 1, 2, 3, 4] midway.cur 0 = true ∧
      midway.cur + 1 + tileExtent 18 16 * tileExtent 2 0 * grayFormat.bpp = [0x00, 0xFF, 1, 2, 3, 4].length ∧
      (1 < tileExtent 18 16 ∧ 1 < tileExtent 2 0) := by decide

/-- The same tile without RAW and ANY_SUBRECTS, with both colours and with neither. -/
theorem witness_HextileUnflaggedTilesAreBackground_anywhere :
    (tileFlag [0x00, 0xF6, 1, 2] midway.cur 0 = false ∧ tileFlag [0x00, 0xF6, 1, 2] midway.cur 3 = false ∧
      tileCountAt grayFormat [0x00, 0xF6, 1, 2] midway.cur = 4) ∧
      tileFlag [0x00, 0x10] midway.cur 0 = false ∧ tileFlag [0x00, 0x10] midway.cur 3 = false ∧
      tileCountAt grayFormat [0x00, 0x10] midway.cur = 2 := by decide

/-- The same tile with one uncoloured subrectangle on its pixel (1, 1), reaching outside the tile. -/
theorem witness_HextileForegroundSubrectangles_anywhere :
    (tileFlag [0x00, 0x08, 1, 0x11, 0xFF] midway.cur 0 = false ∧ tileFlag [0x00, 0x08, 1, 0x11, 0xFF] midway.cur 3 = true ∧
      tileFlag [0x00, 0x08, 1, 0x11, 0xFF] midway.cur 4 = false) ∧
      tileSubAt grayFormat [0x00, 0x08, 1, 0x11, 0xFF] midway.cur 1 = 5 ∧
      tileCount grayFormat [0x00, 0x08, 1, 0x11, 0xFF] midway.cur = 1 ∧
      TileCovers [0x00, 0x08, 1, 0x11, 0xFF] (tileXyAt grayFormat [0x00, 0x08, 1, 0x11, 0xFF] midway.cur 0) 1 1 ∧
      ¬TileCovers [0x00, 0x08, 1, 0x11, 0xFF] (tileXyAt grayFormat [0x00, 0x08, 1, 0x11, 0xFF] midway.cur 0) 0 1 := by
  unfold TileCovers
  decide

/-- The payload of the next witness: two coloured subrectangles, the second on pixel (0, 0) alone. -/
def coloured : List Byte := [0x00, 0x18, 2, 0xC1, 0x00, 0x10, 0xC2, 0x00, 0x00]

theorem witness_HextileColouredSubrectangles_anywhere :
    (tileFlag coloured midway.cur 0 = false ∧ tileFlag coloured midway.cur 3 = true ∧
      tileFlag coloured midway.cur 4 = true) ∧
      (tileCount grayFormat coloured midway.cur = 2 ∧ tileSubAt grayFormat coloured midway.cur 2 = coloured.length) ∧
      (TileCovers coloured (tileXyAt grayFormat coloured midway.cur 0) 1 0 ∧
        ¬TileCovers coloured (tileXyAt grayFormat coloured midway.cur 1) 1 0) ∧
      TileCovers coloured (tileXyAt grayFormat coloured midway.cur 1) 0 0 ∧
      (¬TileCovers coloured (tileXyAt grayFormat coloured midway.cur 0) 0 1 ∧
        ¬TileCovers coloured (tileXyAt grayFormat coloured midway.cur 1) 0 1) := by
  unfold TileCovers
  decide

theorem witness_HextileRawTile :
    let s := State.withRect (State.withPayload gray [0xFF, 1, 2, 3, 4]) 2 2
    s.params.wf = true ∧ ¬IllegalFormat s ∧ s.inLen.toNat ≤ s.params.inSize ∧
      s.rectWidth * s.rectHeight * 4 ≤ s.params.outSize ∧ (0 < s.rectWidth ∧ s.rectWidth ≤ 16) ∧
      (0 < s.rectHeight ∧ s.rectHeight ≤ 16) ∧ (s.bufByte .inp 0).getLsbD 0 = true ∧
      1 + s.rectWidth * s.rectHeight * bytesPerPixel s ≤ s.inLen.toNat := by
  unfold IllegalFormat
  decide +kernel

theorem witness_HextileSingleRawTileIsRaw :
    let s := State.withRect (State.withPayload gray [1, 2, 3, 4]) 2 2
    let h := State.withRect (State.withPayload gray [1, 1, 2, 3, 4]) 2 2
    (s.params.wf = true ∧ h.params = s.params ∧ h.pfCtrl = s.pfCtrl ∧ h.pfRmax = s.pfRmax ∧ h.pfGmax = s.pfGmax ∧
      h.pfBmax = s.pfBmax ∧ h.pfShift = s.pfShift ∧ h.rectW = s.rectW ∧ h.rectH = s.rectH) ∧
      (s.rectWidth ≤ 16 ∧ s.rectHeight ≤ 16 ∧ h.inLen.toNat = s.inLen.toNat + 1 ∧ h.inLen.toNat ≤ s.params.inSize ∧
        s.rectWidth * s.rectHeight * 4 ≤ s.params.outSize ∧ ¬IllegalFormat s ∧
        s.rectWidth * s.rectHeight * bytesPerPixel s ≤ s.inLen.toNat) ∧
      h.bufByte .inp 0 = 0x01#8 ∧ ∀ i < s.inLen.toNat, h.bufByte .inp (i + 1) = s.bufByte .inp i := by
  unfold IllegalFormat
  decide +kernel

theorem witness_HextileUnflaggedTilesAreBackground :
    let s := State.withRect (State.withPayload gray [0, 0]) 18 2
    s.params.wf = true ∧ ¬IllegalFormat s ∧ s.inLen.toNat ≤ s.params.inSize ∧
      s.rectWidth * s.rectHeight * 4 ≤ s.params.outSize ∧
      (s.rectWidth + 15) / 16 * ((s.rectHeight + 15) / 16) ≤ s.inLen.toNat ∧
      ∀ i < (s.rectWidth + 15) / 16 * ((s.rectHeight + 15) / 16), s.bufByte .inp i = 0x00#8 := by
  unfold IllegalFormat
  decide +kernel

/-- Section 6.1, row 7: the subrectangle covers (1, 0) and not (0, 0). -/
theorem witness_HextileForegroundSubrectangles :
    let s := State.withRect (State.withPayload rgb565 [0x0E, 0x1F, 0x00, 0x00, 0xF8, 0x01, 0x10, 0x10]) 3 2
    (s.params.wf = true ∧ ¬IllegalFormat s ∧ s.inLen.toNat ≤ s.params.inSize ∧
      s.rectWidth * s.rectHeight * 4 ≤ s.params.outSize ∧ (0 < s.rectWidth ∧ s.rectWidth ≤ 16) ∧
      (0 < s.rectHeight ∧ s.rectHeight ≤ 16) ∧ s.bufByte .inp 0 = 0x0E#8 ∧ 2 + 2 * bytesPerPixel s ≤ s.inLen.toNat ∧
      2 + 2 * bytesPerPixel s + 2 * inByte s (1 + 2 * bytesPerPixel s) ≤ s.inLen.toNat) ∧
      inByte s (1 + 2 * bytesPerPixel s) = 1 ∧ HexCovers s (2 + 2 * bytesPerPixel s) 1 0 ∧
      ¬HexCovers s (2 + 2 * bytesPerPixel s) 0 0 := by
  unfold IllegalFormat HexCovers
  decide +kernel

/-- Two subrectangles of colours C1 and C2; (0, 0) is covered by both, (1, 0) by the first alone, (1, 1) by none. -/
theorem witness_HextileColouredSubrectangles :
    let s := State.withRect (State.withPayload gray [0x1A, 0x77, 0x02, 0xC1, 0x00, 0x10, 0xC2, 0x00, 0x00]) 2 2
    (s.params.wf = true ∧ ¬IllegalFormat s ∧ s.inLen.toNat ≤ s.params.inSize ∧
      s.rectWidth * s.rectHeight * 4 ≤ s.params.outSize ∧ (0 < s.rectWidth ∧ s.rectWidth ≤ 16) ∧
      (0 < s.rectHeight ∧ s.rectHeight ≤ 16) ∧ s.bufByte .inp 0 = 0x1A#8 ∧ 2 + bytesPerPixel s ≤ s.inLen.toNat ∧
      hexOffset s (inByte s (1 + bytesPerPixel s)) ≤ s.inLen.toNat) ∧
      inByte s (1 + bytesPerPixel s) = 2 ∧
      (HexCovers s (hexOffset s 0 + bytesPerPixel s) 0 0 ∧ HexCovers s (hexOffset s 1 + bytesPerPixel s) 0 0) ∧
      (HexCovers s (hexOffset s 0 + bytesPerPixel s) 1 0 ∧ ¬HexCovers s (hexOffset s 1 + bytesPerPixel s) 1 0) ∧
      ¬HexCovers s (hexOffset s 0 + bytesPerPixel s) 1 1 ∧ ¬HexCovers s (hexOffset s 1 + bytesPerPixel s) 1 1 := by
  unfold IllegalFormat HexCovers
  decide +kernel

theorem witness_HextileTileStaysInside :
    (∃ st', hexTile grayFormat [0x02, 0x77] 2 2 (tileStart fun _ _ => ⟨9, 9, 9, 9⟩) (0, 0) = .ok st') ∧
      ¬(0 ≤ 2 ∧ 2 < 0 + tileExtent 2 0 ∧ 0 ≤ 0 ∧ 0 < 0 + tileExtent 2 0) ∧
      3 < (18 + 15) / 16 * ((17 + 15) / 16) := ⟨⟨_, rfl⟩, by decide, by decide⟩

theorem witness_HextileRunningColours :
    (∃ st', hexTile grayFormat [0x06, 0x77, 0x88] 2 2 (tileStart fun _ _ => ⟨9, 9, 9, 9⟩) (0, 0) = .ok st') ∧
      (∃ st', hexTile grayFormat [0x07, 0x77] 1 1 (tileStart fun _ _ => ⟨9, 9, 9, 9⟩) (0, 0) = .ok st') ∧
      (0x07#8).getLsbD 0 = true ∧ (0x06#8).getLsbD 0 = false := ⟨⟨_, rfl⟩, ⟨_, rfl⟩, by decide, by decide⟩

theorem witness_HextileAssignsEveryPixel :
    (∃ st', (tileOrigins 2 2).foldlM (hexTile grayFormat [0x02, 0x77] 2 2) (tileStart fun _ _ => ⟨0, 0, 0, 0⟩) =
        .ok st') ∧
      (∃ u', (tileOrigins 2 2).foldlM (hexTile grayFormat [0x02, 0x77] 2 2) (tileStart fun _ _ => ⟨9, 9, 9, 9⟩) =
        .ok u') ∧ (1 : Nat) < 2 := ⟨⟨_, rfl⟩, ⟨_, rfl⟩, by decide⟩

theorem witness_HextileAssignsEveryPixel_committed :
    let s := State.withRect (State.withPayload gray [0x02, 0x77]) 2 2
    (s.params.wf = true ∧ ¬IllegalFormat s ∧ s.inLen.toNat ≤ s.params.inSize ∧
      s.rectWidth * s.rectHeight * 4 ≤ s.params.outSize) ∧
      ∃ st', hexTiles s (tileOrigins s.rectWidth s.rectHeight).length (hexStart s fun _ _ => ⟨9, 9, 9, 9⟩) = .ok st' := by
  refine ⟨?_, _, rfl⟩
  unfold IllegalFormat
  decide +kernel

/-- Each of the eight reads of R217 as the first that does not fit (2 by 2 pixels, one byte each), and a payload in
which the last read just fits. -/
theorem witness_HextileTruncationIsAnError_reads :
    firstShort [] (tileReads grayFormat [] 0 4) = some (0, 1) ∧
      firstShort [1, 5, 5, 5] (tileReads grayFormat [1, 5, 5, 5] 0 4) = some (1, 4) ∧
      firstShort [2] (tileReads grayFormat [2] 0 4) = some (1, 1) ∧
      firstShort [6, 5] (tileReads grayFormat [6, 5] 0 4) = some (2, 1) ∧
      firstShort [14, 5, 5] (tileReads grayFormat [14, 5, 5] 0 4) = some (3, 1) ∧
      firstShort [24, 2, 5, 0, 0] (tileReads grayFormat [24, 2, 5, 0, 0] 0 4) = some (5, 1) ∧
      firstShort [24, 1, 5] (tileReads grayFormat [24, 1, 5] 0 4) = some (3, 1) ∧
      firstShort [24, 1, 5, 0] (tileReads grayFormat [24, 1, 5, 0] 0 4) = some (4, 1) ∧
      firstShort [24, 1, 5, 0, 0] (tileReads grayFormat [24, 1, 5, 0, 0] 0 4) = none := by decide

/-- The second tile of an 18 by 2 rectangle is short of its background: the error comes with cursor 2. -/
theorem witness_HextileTruncationIsAnError_second :
    ShortTile (State.withRect (State.withPayload gray [0x00, 0x02]) 18 2) 1 16 0 (2, 1) := ⟨by decide +kernel, _, rfl, rfl⟩

/-- A rectangle of one tile whose flag byte is all it reads has no short tile. -/
theorem witness_HextileTruncationIsAnError_none (k tx ty : Nat) (r : Nat × Nat) :
    ¬ShortTile (State.withRect (State.withPayload gray [0x00]) 2 2) k tx ty r := by
  rintro ⟨h, st, hs, hr⟩
  rcases k with _ | k
  · cases h
    cases hs
    exact absurd hr (by rw [show firstShort _ _ = none from rfl]; exact nofun)
  · cases h

theorem witness_HextileTruncationIsAnError :
    let e := State.withRect gray 2 2
    let s := State.withRect (State.withPayload gray [0x01, 1, 2, 3]) 2 2
    (¬IllegalFormat e ∧ e.inLen.toNat ≤ e.params.inSize ∧ e.rectWidth * e.rectHeight * 4 ≤ e.params.outSize ∧
      0 < e.rectWidth ∧ 0 < e.rectHeight ∧ e.inLen = 0) ∧
      (¬IllegalFormat s ∧ s.inLen.toNat ≤ s.params.inSize ∧ s.rectWidth * s.rectHeight * 4 ≤ s.params.outSize ∧
        0 < s.rectWidth ∧ 0 < s.rectHeight) ∧
      0 < s.inLen.toNat ∧ (s.bufByte .inp 0).getLsbD 0 = true ∧
      s.inLen.toNat < 1 + min 16 s.rectWidth * min 16 s.rectHeight * bytesPerPixel s := by
  unfold IllegalFormat
  decide +kernel

theorem witness_DepthAndPositionHaveNoEffect :
    Instr.nop ≠ .clear ∧ 0x00FF0000#32 &&& 0xFF00FFFF#32 = gray.pfCtrl &&& 0xFF00FFFF#32 ∧
      exec .nop gray = .next gray.completeOk ∧
      exec .nop { gray with pfCtrl := 0x00FF0000#32, rectX := 1, rectY := 2 } =
        .next { gray with pfCtrl := 0x00FF0000#32, rectX := 1, rectY := 2 }.completeOk := by
  refine ⟨by decide, by decide, rfl, rfl⟩

end Sys2Proof.Tests
end

section
/-! PROOFS. The number of bits and the number of base-256 digits of a number (R10, R134, R139), each pinned as the
left adjoint of its power, and the statement about `natlen`. -/

namespace Sys2Proof.Machine

@[simp] theorem bitlen_zero : bitlen 0 = 0 := rfl

theorem bitlen_of_ne_zero {v : Nat} (hv : v ≠ 0) : bitlen v = Nat.log2 v + 1 := if_neg hv

/-- R139: the bits of `v` fit in `n` places exactly when `v < 2^n`. -/
theorem bitlen_le_iff {v n : Nat} : bitlen v ≤ n ↔ v < 2 ^ n := by
  by_cases hv : v = 0
  · simp [hv]
  · rw [bitlen_of_ne_zero hv, Nat.succ_le_iff, Nat.log2_lt hv]

@[simp] theorem natlen_zero : natlen 0 = 0 := rfl

/-- R10: the base-256 digits of `v` fit in `n` places exactly when `v < 256^n`; a digit is eight bits. -/
theorem natlen_le_iff {v n : Nat} : natlen v ≤ n ↔ v < 256 ^ n := by
  have digit_bits : natlen v ≤ n ↔ bitlen v ≤ 8 * n := by
    unfold natlen
    omega
  rw [digit_bits, bitlen_le_iff, Nat.pow_mul]

/-- Settles O36: both bounds are readings of `natlen_le_iff`, the first at `n = natlen v`. -/
theorem natlenIsLeast : Obligations.NatlenIsLeast :=
  ⟨natlen_zero, fun _ => ⟨natlen_le_iff.mp le_rfl, fun _ => natlen_le_iff.mpr⟩⟩

end Sys2Proof.Machine
end

section
/-! PROOFS. The word registers and the port as reasoning rules: the three kinds of register (R69), what a register
reads after a write to itself, to another register or elsewhere, and what each transaction does at an offset the map
has. From them the statements about the registers at the port. -/

namespace Sys2Proof.Machine

/-! ## The kinds of word register -/

/-- The registers that ignore every host write (R69). -/
def WordReg.readOnly (r : WordReg) : Bool :=
  r ∈ [.id, .errcode, .errinfo, .capIn, .capOut, .capMx, .outLen, .srcX, .srcY, .mxRlen]

/-- The registers that keep a host write: all but the read-only ones, CMD and STATUS (R69). -/
def WordReg.stored (r : WordReg) : Bool := !r.readOnly && r != .cmd && r != .status

theorem WordReg.kinds (r : WordReg) : r = .cmd ∨ r = .status ∨ r.readOnly = true ∨ r.stored = true := by
  cases r <;> decide

theorem WordReg.write_of_readOnly {r : WordReg} (hr : r.readOnly = true) (s : State) (v : Word) : r.write s v = s := by
  cases r <;> trivial

/-- R21, R69: a stored register takes the bits that are not reserved. -/
theorem WordReg.read_write_self {r : WordReg} (hr : r.stored = true) (s : State) (v : Word) :
    r.read (r.write s v) = v &&& r.mask := by
  cases r <;> trivial

/-- A write to a register other than CMD changes what no other register reads. -/
theorem WordReg.read_write_of_ne {q r : WordReg} (hr : r ≠ .cmd) (hq : q ≠ r) (s : State) (v : Word) :
    q.read (r.write s v) = q.read s := by
  cases r with
  | cmd => exact absurd rfl hr
  | id | errcode | errinfo | capIn | capOut | capMx | outLen | srcX | srcY | mxRlen => rfl
  | _ => cases q <;> trivial

/-! ## What a register write leaves unchanged -/

@[simp] theorem WordReg.write_desKey (r : WordReg) (s : State) (v : Word) : (r.write s v).desKey = s.desKey := by
  cases r <;> rfl

@[simp] theorem WordReg.write_desIn (r : WordReg) (s : State) (v : Word) : (r.write s v).desIn = s.desIn := by
  cases r <;> rfl

@[simp] theorem WordReg.write_desOut (r : WordReg) (s : State) (v : Word) : (r.write s v).desOut = s.desOut := by
  cases r <;> rfl

@[simp] theorem WordReg.write_mem (r : WordReg) (s : State) (v : Word) : (r.write s v).mem = s.mem := by
  cases r <;> rfl

@[simp] theorem WordReg.write_params (r : WordReg) (s : State) (v : Word) : (r.write s v).params = s.params := by
  cases r <;> rfl

@[simp] theorem WordReg.write_outLen (r : WordReg) (s : State) (v : Word) : (r.write s v).outLen = s.outLen := by
  cases r <;> rfl

@[simp] theorem WordReg.write_mxRlen (r : WordReg) (s : State) (v : Word) : (r.write s v).mxRlen = s.mxRlen := by
  cases r <;> rfl

/-- CMD alone writes PEND (R85). -/
theorem WordReg.write_pend {r : WordReg} (hr : r ≠ .cmd) (s : State) (v : Word) : (r.write s v).pend = s.pend := by
  cases r <;> trivial

/-! ## The fields that reads do not see -/

/-- A word register reads nothing of the DES regions, the buffers, PEND, the response and the schedule. -/
theorem WordReg.read_of_regs (r : WordReg) (s : State) (key din dout : Bytes8) (m : Memory) (p : Word)
    (x : Option PortResp) (es : List Event) :
    r.read { s with desKey := key, desIn := din, desOut := dout, mem := m, pend := p, resp := x, sched := es } =
      r.read s := by
  cases r <;> rfl

/-- A byte-wide location reads DES_IN, DES_OUT and the buffers alone: not DES_KEY (R33). -/
theorem ByteLoc.read_congr {s t : State} (hin : t.desIn = s.desIn) (hout : t.desOut = s.desOut) (hmem : t.mem = s.mem)
    (l : ByteLoc) : l.read t = l.read s := by
  cases l with
  | desKey i => rfl
  | desIn i => simp [ByteLoc.read, hin]
  | desOut i => simp [ByteLoc.read, hout]
  | buf b i => simp [ByteLoc.read, State.bufByte, hmem]

/-! ## A transaction at an offset the map has -/

theorem portStep_read32 {s : State} {a : Offset} {r : WordReg} (ha : wordAt a.toNat = some r) :
    portStep s (.read32 a) = { s with resp := some (.word (r.read s)) } := by
  simp only [portStep, portRead32, ha]

theorem portStep_write32 {s : State} {a : Offset} {r : WordReg} (ha : wordAt a.toNat = some r) (hb : s.busy = false)
    (v : Word) : portStep s (.write32 a v) = { r.write s v with resp := some .written } := by
  simp only [portStep, portWrite32, ha, hb, Bool.false_eq_true, if_false]

theorem portStep_write8 {s : State} {a : Offset} {l : ByteLoc} (ha : byteLocAt s.params a.toNat = some l)
    (hb : s.busy = false) (v : Byte) : portStep s (.write8 a v) = { l.write s v with resp := some .written } := by
  simp only [portStep, portWrite8, ha, hb, Bool.false_eq_true, if_false]

theorem portStep_write32_readOnly {s : State} {a : Offset} {r : WordReg} (ha : wordAt a.toNat = some r)
    (hr : r.readOnly = true) (hb : s.busy = false) (v : Word) :
    portStep s (.write32 a v) = { s with resp := some .written } := by
  rw [portStep_write32 ha hb, WordReg.write_of_readOnly hr]

/-- R21, R69: a stored register reads back at the port what was written, without the reserved bits. -/
theorem portStep_read32_write32 {s : State} {a : Offset} {r : WordReg} {m : Word} (ha : wordAt a.toNat = some r)
    (hr : r.stored = true) (hm : r.mask = m) (hb : s.busy = false) (v : Word) :
    (portStep (portStep s (.write32 a v)) (.read32 a)).resp = some (.word (v &&& m)) := by
  have hread : r.read { r.write s v with resp := some .written } = v &&& m :=
    calc r.read { r.write s v with resp := some .written } = r.read (r.write s v) := r.read_of_regs _ _ _ _ _ _ _ _
      _ = v &&& r.mask := WordReg.read_write_self hr s v
      _ = v &&& m := by rw [hm]
  rw [portStep_read32 ha, portStep_write32 ha hb, hread]

/-- R33: reads go through the locations, none of which shows DES_KEY, and a write's response says only whether the map
has its offset. -/
theorem portStep_resp_desKey (s : State) (key : Bytes8) (op : PortOp) :
    (portStep { s with desKey := key } op).resp = (portStep s op).resp := by
  have hword (r : WordReg) : r.read { s with desKey := key } = r.read s := r.read_of_regs s _ _ _ _ _ _ _
  have hbyte (l : ByteLoc) : l.read { s with desKey := key } = l.read s := l.read_congr rfl rfl rfl
  cases op with
  | read8 a =>
    simp only [portStep, portRead8, hbyte]
    cases byteLocAt s.params a.toNat <;> rfl
  | read32 a =>
    simp only [portStep, portRead32, hword]
    cases wordAt a.toNat <;> rfl
  | write8 a v =>
    simp only [portStep, portWrite8]
    cases byteLocAt s.params a.toNat <;> rfl
  | write32 a v =>
    simp only [portStep, portWrite32]
    cases wordAt a.toNat <;> rfl

/-! ## STATUS -/

@[simp] theorem WordReg.write_status_busy (s : State) (v : Word) : (WordReg.status.write s v).busy = s.busy :=
  statusWord_busy _ _ _ _

@[simp] theorem WordReg.write_status_done (s : State) (v : Word) :
    (WordReg.status.write s v).done = (s.done && !v.getLsbD 1) :=
  statusWord_done _ _ _ _

@[simp] theorem WordReg.write_status_err (s : State) (v : Word) : (WordReg.status.write s v).err = s.err :=
  statusWord_err _ _ _ _

@[simp] theorem WordReg.write_status_ovr (s : State) (v : Word) :
    (WordReg.status.write s v).ovr = (s.ovr && !v.getLsbD 3) :=
  statusWord_ovr _ _ _ _

/-! ## The statements about the port -/

/-- Settles O19: the write replaces STATUS by the word of the four flags, and a response is no flag. -/
theorem statusWriteClearsDoneAndOvr : Obligations.StatusWriteClearsDoneAndOvr := by
  intro s v hb
  have hstep := portStep_write32 (a := 0x008#27) (r := .status) rfl hb v
  rw [hstep]
  exact ⟨(WordReg.write_status_busy s v).trans hb, WordReg.write_status_done s v, WordReg.write_status_err s v,
    WordReg.write_status_ovr s v, rfl⟩

/-- Settles O21: a key byte's offset carries that byte, and no read returns it. -/
theorem desKeyIsNeverReadable : Obligations.DesKeyIsNeverReadable := by
  refine ⟨fun s i v hb => ?_, portStep_resp_desKey⟩
  have hloc : byteLocAt s.params (BitVec.ofNat 27 (0x100 + i)).toNat = some (.desKey i) := by
    have hoff : (BitVec.ofNat 27 (0x100 + i)).toNat = desKeyBase + i := by
      simp only [BitVec.toNat_ofNat, desKeyBase]
      omega
    rw [byteLocAt, hoff, if_pos (by omega), Nat.add_sub_cancel_left, Fin.ofNat_val_eq_self]
  rw [portStep_write8 hloc hb]
  rfl

/-- Settles O18: each offset of the three lists carries a register of its kind, and a register write is seen through
that register alone. -/
theorem registerWriteThenRead : Obligations.RegisterWriteThenRead := by
  intro s v hb
  refine ⟨?rw, ?ro, rfl, fun a r ha hr => ?frame⟩
  case rw =>
    intro am ham
    fin_cases ham <;> exact portStep_read32_write32 (by rfl) (by rfl) (by rfl) hb v
  case ro =>
    intro a ham
    fin_cases ham <;> exact portStep_write32_readOnly rfl rfl hb v
  case frame =>
    rw [portStep_write32 ha hb]
    refine ⟨fun q hq => ?_, ?_, WordReg.write_desKey r s v, WordReg.write_pend hr s v⟩
    · exact (q.read_of_regs (r.write s v) _ _ _ _ _ _ _).trans (WordReg.read_write_of_ne hr hq s v)
    · exact ByteLoc.read_congr (r.write_desIn s v) (r.write_desOut s v) (r.write_mem s v)

end Sys2Proof.Machine
end

section
/-! PROOFS. What the engine's step can do, said once for all commands (R87, R95), and what every step keeps whatever
moves: the parameters (R28), and CTRL through every completion but CLEAR's (R54). -/

namespace Sys2Proof.Machine

/-! ## What a command commits -/

/-- The updates that the commands other than CLEAR can make before `complete OK` (R95), with the bounds their checks
give on what they write. -/
inductive Commit (s : State) : State → Prop where
  | unchanged : Commit s s
  | desOut (d : Bytes8) : Commit s { s with desOut := d }
  | source (x y : Nat) (hx : x < 65536) (hy : y < 65536) :
      Commit s { s with srcX := BitVec.ofNat 32 x, srcY := BitVec.ofNat 32 y }
  | pixels (px : List Rgba) (hfit : 4 * px.length ≤ s.params.outSize) : Commit s (s.withPixels px)
  | mxResult (bs : List Byte) (hfit : bs.length ≤ 2 * s.params.mxSize) : Commit s (s.withMxResult bs)

theorem be16At_lt (bs : List Byte) (a : Nat) : be16At bs a < 65536 := by
  have hlen : (slice bs a 2).length ≤ 2 := List.length_take_le _ _
  calc be16At bs a < 256 ^ (slice bs a 2).length := natOf_lt _
    _ ≤ 256 ^ 2 := Nat.pow_le_pow_right (by decide) hlen

theorem pxConv_commits {s u : State} (h : pxConv s = .ok u) : Commit s u := by
  obtain ⟨f, _, _, hfit, _, rfl⟩ := pxConv_eq_ok h
  exact .pixels _ (by simpa using hfit)

/-- The pre-checks of the decoders leave room in OUT for the whole rectangle (R182). -/
theorem rectangle_commits {s : State} {f : PixelFormat} (h : decPreCheck s = .ok f) (px : Canvas) :
    Commit s (s.withPixels (px.pixels s.rectWidth s.rectHeight)) := by
  obtain ⟨_, _, hfit⟩ := decPreCheck_eq_ok.mp h
  exact .pixels _ (by rw [Canvas.pixels_length]; omega)

theorem decRaw_commits {s u : State} (h : decRaw s = .ok u) : Commit s u := by
  obtain ⟨f, px, hpre, _, rfl⟩ := decRaw_eq_ok h
  exact rectangle_commits hpre px

theorem decRre_commits {s u : State} (h : decRre s = .ok u) : Commit s u := by
  obtain ⟨f, px, hpre, _, rfl⟩ := decRre_eq_ok h
  exact rectangle_commits hpre px

theorem decHextile_commits {s u : State} (h : decHextile s = .ok u) : Commit s u := by
  obtain ⟨f, px, hpre, _, rfl⟩ := decHextile_eq_ok h
  exact rectangle_commits hpre px

theorem decCopyrect_commits {s u : State} (h : decCopyrect s = .ok u) : Commit s u := by
  obtain ⟨_, _, rfl⟩ := decCopyrect_eq_ok h
  exact .source _ _ (be16At_lt _ _) (be16At_lt _ _)

theorem mxWriteBack_commits {s u : State} {v : Nat} (h : mxWriteBack s v = .ok u) : Commit s u := by
  obtain ⟨hfit, rfl⟩ := mxWriteBack_eq_ok.mp h
  exact .mxResult _ (by rwa [toBytesBe_length])

theorem mxModpow_commits {s u : State} (h : mxModpow s = .ok u) : Commit s u := by
  obtain ⟨_, _, _, _, _, _, hw⟩ := mxModpow_eq_ok h
  exact mxWriteBack_commits hw

theorem mxMod_commits {s u : State} (h : mxMod s = .ok u) : Commit s u := by
  obtain ⟨_, _, _, _, _, hw⟩ := mxMod_eq_ok h
  exact mxWriteBack_commits hw

theorem mxMul_commits {s u : State} (h : mxMul s = .ok u) : Commit s u := by
  obtain ⟨_, _, _, _, hw⟩ := mxMul_eq_ok h
  exact mxWriteBack_commits hw

/-! ## How a command ends -/

/-- `t` is what a command other than CLEAR leaves: its commit with `complete OK`, or an error completion (R87). -/
def Ended (s t : State) : Prop := (∃ u, Commit s u ∧ t = u.completeOk) ∨ ∃ e, t = s.completeErr e

theorem finish_ended {s t : State} {r : Except CmdError State} (hr : ∀ {u}, r = .ok u → Commit s u)
    (h : finish s r = .next t) : Ended s t := by
  rcases finish_eq_next h with ⟨u, hu, ht⟩ | ⟨e, _, ht⟩
  · exact .inl ⟨u, hr hu, ht⟩
  · exact .inr ⟨e, ht⟩

/-- CLEAR ends in the cleared state; every other command ends by a commit or by an error. -/
theorem exec_cases {i : Instr} {s t : State} (h : exec i s = .next t) :
    (i = .clear ∧ t = s.cleared.completeOk) ∨ Ended s t := by
  cases i with
  | clear => exact .inl ⟨rfl, (Host.Outcome.next.inj h).symm⟩
  | nop => exact .inr (.inl ⟨s, .unchanged, (Host.Outcome.next.inj h).symm⟩)
  | desEnc kr => exact .inr (.inl ⟨_, .desOut _, (Host.Outcome.next.inj h).symm⟩)
  | mxModpow => exact .inr (finish_ended mxModpow_commits h)
  | mxMod => exact .inr (finish_ended mxMod_commits h)
  | mxMul => exact .inr (finish_ended mxMul_commits h)
  | pxConv => exact .inr (finish_ended pxConv_commits h)
  | decRaw => exact .inr (finish_ended decRaw_commits h)
  | decCopyrect => exact .inr (finish_ended decCopyrect_commits h)
  | decRre => exact .inr (finish_ended decRre_commits h)
  | decHextile => exact .inr (finish_ended decHextile_commits h)

/-- Everything the engine's step can do (R87, R94): nothing with BUSY = 0; else it clears, for CLEAR alone, or ends by
a commit or an error. -/
theorem engineStep_cases {s t : State} (h : engineStep s = .next t) :
    (s.busy = false ∧ t = s) ∨ (decode s.pend = .ok .clear ∧ t = s.cleared.completeOk) ∨ Ended s t := by
  unfold engineStep at h
  split at h
  · split at h
    · next i hi =>
      rcases exec_cases h with ⟨rfl, ht⟩ | hend
      · exact .inr (.inl ⟨hi, ht⟩)
      · exact .inr (.inr hend)
    · exact .inr (.inr (.inr ⟨_, (Host.Outcome.next.inj h).symm⟩))
  · next hb => exact .inl ⟨by simpa using hb, (Host.Outcome.next.inj h).symm⟩

/-- Everything a step of the system can do (R71), on the state whose next event is taken off. -/
theorem step_cases {s t : State} (h : step s = .next t) :
    engineStep s.popEvent = .next t ∨ (∃ op, t = portStep s.popEvent op) ∨
      ∃ fill cells, t = s.popEvent.afterReset fill cells := by
  unfold step at h
  cases he : s.nextEvent with
  | engine =>
    rw [he] at h
    exact .inl h
  | port op =>
    rw [he] at h
    exact .inr (.inl ⟨op, (Host.Outcome.next.inj h).symm⟩)
  | reset fill cells =>
    rw [he] at h
    exact .inr (.inr ⟨fill, cells, (Host.Outcome.next.inj h).symm⟩)

/-! ## CTRL and irq -/

theorem Commit.ctrl_eq {s u : State} (h : Commit s u) : u.ctrl = s.ctrl := by
  cases h <;> rfl

theorem Ended.ctrl_eq {s t : State} (h : Ended s t) : t.ctrl = s.ctrl := by
  rcases h with ⟨u, hu, rfl⟩ | ⟨e, rfl⟩
  · exact hu.ctrl_eq
  · rfl

theorem Ended.done_eq {s t : State} (h : Ended s t) : t.done = true := by
  rcases h with ⟨u, _, rfl⟩ | ⟨e, rfl⟩
  · exact u.completeOk_done
  · exact s.completeErr_done e

/-- Settles O23: either completion sets DONE and neither writes CTRL. -/
theorem completionRaisesIrq : Obligations.CompletionRaisesIrq := by
  refine ⟨fun s => rfl, fun s t hb h hne => ?_⟩
  have hend : Ended s t := by
    rcases engineStep_cases h with ⟨hidle, _⟩ | ⟨hclear, _⟩ | hend
    · exact absurd hb (by simp [hidle])
    · exact absurd hclear hne
    · exact hend
  exact ⟨hend.ctrl_eq, by rw [State.irq, State.ie, hend.done_eq, hend.ctrl_eq, Bool.and_true]⟩

/-! ## The parameters -/

theorem Commit.params_eq {s u : State} (h : Commit s u) : u.params = s.params := by
  cases h <;> rfl

theorem Ended.params_eq {s t : State} (h : Ended s t) : t.params = s.params := by
  rcases h with ⟨u, hu, rfl⟩ | ⟨e, rfl⟩
  · exact hu.params_eq
  · rfl

theorem engineStep_params {s t : State} (h : engineStep s = .next t) : t.params = s.params := by
  rcases engineStep_cases h with ⟨_, rfl⟩ | ⟨_, rfl⟩ | hend
  · rfl
  · rfl
  · exact hend.params_eq

@[simp] theorem ByteLoc.write_params (l : ByteLoc) (s : State) (v : Byte) : (l.write s v).params = s.params := by
  cases l with
  | buf b i => cases b <;> rfl
  | _ => rfl

theorem portStep_params (s : State) (op : PortOp) : (portStep s op).params = s.params := by
  rcases portStep_cases s op with ⟨x, h⟩ | ⟨a, v, r, _, _, h⟩ | ⟨a, v, l, _, _, h⟩
  · rw [h]
  · rw [h]
    cases s.busy <;> simp
  · rw [h]
    cases s.busy <;> simp

/-- R28: the parameters are constants for every step, a reset included. -/
theorem step_params {s t : State} (h : step s = .next t) : t.params = s.params := by
  rcases step_cases h with heng | ⟨op, rfl⟩ | ⟨fill, cells, rfl⟩
  · exact (engineStep_params heng).trans s.popEvent_params
  · exact portStep_params s.popEvent op
  · rfl

/-- Settles O16: the three offsets carry read-only registers that read the parameters, and no step changes those. -/
theorem capacityRegistersAreConstant : Obligations.CapacityRegistersAreConstant := by
  refine ⟨fun s => ⟨rfl, rfl, rfl, fun hb v a ha => ?_⟩, fun s t => step_params⟩
  fin_cases ha <;> exact portStep_write32_readOnly rfl rfl hb v

end Sys2Proof.Machine
end

section
/-! PROOFS. The invariant of the block (R21, R24, R30, R142, R180, R241): one rule per state operation says that the
operation keeps it, and `step_cases` puts the rules together. -/

namespace Sys2Proof.Machine

/-! ## Reserved bits -/

/-- A value below `2^k` has no bit above the low `k` ones. -/
theorem and_not_lowMask {x : Word} {k : Nat} (hx : x.toNat < 2 ^ k) : x &&& ~~~(BitVec.ofNat 32 (2 ^ k - 1)) = 0 := by
  ext i hi
  have hmask (hbit : x[i] = true) : (BitVec.ofNat 32 (2 ^ k - 1))[i] = true := by
    have hik : i < k := (Nat.pow_lt_pow_iff_right (by decide)).mp ((Nat.ge_two_pow_of_testBit hbit).trans_lt hx)
    rw [← BitVec.getLsbD_eq_getElem, BitVec.getLsbD_ofNat, Nat.testBit_two_pow_sub_one]
    simp [hi, hik]
  simpa using hmask

theorem and_mask_and_not_mask (x m : Word) : x &&& m &&& ~~~m = 0 := by
  simp [BitVec.and_assoc]

theorem ReservedInv.of_read_eq {s t : State} (h : ReservedInv s) (hread : ∀ q : WordReg, q.read t = q.read s) :
    ReservedInv t := fun q => by
  rw [hread q]
  exact h q

theorem ReservedInv.of_read_ne {s t : State} (h : ReservedInv s) {r : WordReg} (hself : r.read t &&& ~~~r.mask = 0)
    (hothers : ∀ q : WordReg, q ≠ r → q.read t = q.read s) : ReservedInv t := fun q => by
  by_cases hq : q = r
  · exact hq ▸ hself
  · rw [hothers q hq]
    exact h q

/-! ## When a part of the invariant carries over -/

theorem LifecycleInv.of_eq {s t : State} (h : LifecycleInv s) (hstatus : t.status = s.status)
    (hcode : t.errcode = s.errcode) (hinfo : t.errinfo = s.errinfo) : LifecycleInv t where
  idle_flags := by simpa only [State.busy, State.done, State.err, hstatus] using h.idle_flags
  err_code := by simpa only [State.err, hstatus, hcode] using h.err_code
  ok_code := by simpa only [State.err, hstatus, hcode, hinfo] using h.ok_code
  code_range := hcode ▸ h.code_range

theorem MemoryInv.of_eq {s t : State} (h : MemoryInv s) (hmem : t.mem = s.mem) (hparams : t.params = s.params) :
    MemoryInv t where
  wf := hmem ▸ h.wf
  mapped := by simpa only [hmem, hparams] using h.mapped

/-- A write within the window of a buffer lists mapped offsets only, and keeps the canonical form. -/
theorem MemoryInv.of_writeBytes {s t : State} (h : MemoryInv s) {b : Buf} {i : Nat} {bs : List Byte}
    (hfit : i + bs.length ≤ b.capacity s.params) (hmem : t.mem = s.mem.writeBytes (b.base + i) bs)
    (hparams : t.params = s.params) : MemoryInv t where
  wf := hmem ▸ Memory.wf_writeBytes h.wf _ _
  mapped := by
    intro c hc
    rw [hmem] at hc
    rw [hparams]
    rcases Memory.mem_writeBytes hc with hold | ⟨hlo, hhi⟩
    · exact h.mapped c hold
    · exact bufAt_isSome (b := b) ⟨by omega, by omega⟩

theorem LengthInv.of_eq {s t : State} (h : LengthInv s) (hout : t.outLen = s.outLen) (hmx : t.mxRlen = s.mxRlen)
    (hparams : t.params = s.params) : LengthInv t where
  outLen_le := by simpa only [hout, hparams] using h.outLen_le
  outLen_mod := hout ▸ h.outLen_mod
  mxRlen_le := by simpa only [hmx, hparams] using h.mxRlen_le

/-- The invariant says nothing of the DES regions, PEND, the response and the schedule. -/
theorem State.Inv.of_regs {s : State} (h : s.Inv) (key din dout : Bytes8) (p : Word) (x : Option PortResp)
    (es : List Event) :
    State.Inv { s with desKey := key, desIn := din, desOut := dout, pend := p, resp := x, sched := es } where
  params := h.params
  lifecycle := h.lifecycle.of_eq rfl rfl rfl
  memory := h.memory.of_eq rfl rfl
  lengths := h.lengths.of_eq rfl rfl rfl
  reserved := h.reserved.of_read_eq fun q => q.read_of_regs s _ _ _ _ _ _ _

/-- A move of the lifecycle (R85, R86, R88, R89) writes STATUS, ERRCODE, ERRINFO and PEND only, so that it has to
answer for the lifecycle invariants and the reserved bits of STATUS; those of ERRCODE follow from its range. -/
theorem State.Inv.of_lifecycle {s t : State} (h : s.Inv) (hlife : LifecycleInv t)
    (hstatus : t.status &&& ~~~WordReg.mask .status = 0)
    (ht : t = { s with pend := t.pend, status := t.status, errcode := t.errcode, errinfo := t.errinfo }) : t.Inv where
  params := by rw [ht]; exact h.params
  lifecycle := hlife
  memory := h.memory.of_eq (by rw [ht]) (by rw [ht])
  lengths := h.lengths.of_eq (by rw [ht]) (by rw [ht]) (by rw [ht])
  reserved := by
    have hcode : t.errcode &&& ~~~WordReg.mask .errcode = 0 :=
      and_not_lowMask (k := 8) (hlife.code_range.trans_lt (by decide))
    intro q
    have hq := h.reserved q
    cases q with
    | status => exact hstatus
    | errcode => exact hcode
    | errinfo => exact BitVec.and_zero
    | _ => rw [ht]; exact hq

/-! ## The lifecycle -/

theorem State.Inv.acceptCommand {s : State} (h : s.Inv) (c : Word) : (s.acceptCommand c).Inv :=
  h.of_lifecycle ⟨by simp, by simp, by simp, by simp⟩ (statusWord_reserved _ _ _ _) rfl

theorem State.Inv.completeOk {s : State} (h : s.Inv) : s.completeOk.Inv :=
  h.of_lifecycle ⟨by simp, by simp, by simp, by simp⟩ (statusWord_reserved _ _ _ _) rfl

/-- The codes of R241. -/
theorem ErrCode.toWord_range (c : ErrCode) : c.toWord ≠ 0 ∧ c.toWord.toNat ≤ 5 := by
  cases c <;> decide

theorem State.Inv.completeErr {s : State} (h : s.Inv) (e : CmdError) : (s.completeErr e).Inv :=
  have ⟨hne, hle⟩ := e.code.toWord_range
  h.of_lifecycle ⟨by simp, fun _ => hne, by simp, hle⟩ (statusWord_reserved _ _ _ _) rfl

theorem State.Inv.dropWrite {s : State} (h : s.Inv) : s.dropWrite.Inv :=
  have ⟨hidle, herr, hok, hrange⟩ := h.lifecycle
  h.of_lifecycle ⟨by simpa using hidle, by simpa using herr, by simpa using hok, hrange⟩
    (statusWord_reserved _ _ _ _) rfl

theorem State.Inv.writeStatus {s : State} (h : s.Inv) (v : Word) : (WordReg.status.write s v).Inv :=
  have ⟨hidle, herr, hok, hrange⟩ := h.lifecycle
  have hidle' (hb : s.busy = true) : (s.done && !v.getLsbD 1) = false ∧ s.err = false := by simp [hidle hb]
  have herr_eq := WordReg.write_status_err s v
  h.of_lifecycle ⟨by simpa using hidle', herr_eq ▸ herr, herr_eq ▸ hok, hrange⟩
    (statusWord_reserved _ _ _ _) rfl

/-! ## Host writes -/

theorem WordReg.write_of_stored {r : WordReg} (hr : r.stored = true) (s : State) (v : Word) :
    (r.write s v).status = s.status ∧ (r.write s v).errcode = s.errcode ∧ (r.write s v).errinfo = s.errinfo := by
  cases r <;> trivial

theorem State.Inv.writeStored {s : State} (h : s.Inv) {r : WordReg} (hr : r.stored = true) (v : Word) :
    (r.write s v).Inv :=
  have ⟨hstatus, hcode, hinfo⟩ := WordReg.write_of_stored hr s v
  have hcmd : r ≠ .cmd := by rintro rfl; contradiction
  { params := by rw [WordReg.write_params]; exact h.params
    lifecycle := h.lifecycle.of_eq hstatus hcode hinfo
    memory := h.memory.of_eq (r.write_mem s v) (r.write_params s v)
    lengths := h.lengths.of_eq (r.write_outLen s v) (r.write_mxRlen s v) (r.write_params s v)
    reserved := h.reserved.of_read_ne (r := r) (WordReg.read_write_self hr s v ▸ and_mask_and_not_mask v r.mask)
      fun q hq => WordReg.read_write_of_ne hcmd hq s v }

theorem State.Inv.writeWord {s : State} (h : s.Inv) (r : WordReg) (v : Word) : (r.write s v).Inv := by
  rcases r.kinds with rfl | rfl | hro | hst
  · exact h.acceptCommand v
  · exact h.writeStatus v
  · rw [WordReg.write_of_readOnly hro]
    exact h
  · exact h.writeStored hst v

theorem State.Inv.writeBuf {s : State} (h : s.Inv) {b : Buf} {i : Nat} (hi : i < b.capacity s.params) (v : Byte) :
    State.Inv { s with mem := s.mem.write (b.base + i) v } where
  params := h.params
  lifecycle := h.lifecycle.of_eq rfl rfl rfl
  memory := h.memory.of_writeBytes (b := b) (i := i) (bs := [v]) hi rfl rfl
  lengths := h.lengths.of_eq rfl rfl rfl
  reserved := h.reserved.of_read_eq fun q => q.read_of_regs s _ _ _ _ _ _ _

/-- A byte write keeps the invariant at every location that the map has: it stays within its buffer's window. -/
theorem State.Inv.writeByte {s : State} (h : s.Inv) {a : Nat} {l : ByteLoc} (hl : byteLocAt s.params a = some l)
    (v : Byte) : (l.write s v).Inv := by
  rcases byteLocAt_eq_some hl with ⟨i, rfl, _⟩ | ⟨i, rfl, _⟩ | ⟨i, rfl, _⟩ | ⟨b, i, rfl, hi, _⟩
  · exact h.of_regs _ _ _ _ _ _
  · exact h.of_regs _ _ _ _ _ _
  · exact h
  · rw [ByteLoc.write]
    split
    · exact h
    · exact h.writeBuf hi v

theorem State.Inv.portStep {s : State} (h : s.Inv) (op : PortOp) : (portStep s op).Inv := by
  rcases portStep_cases s op with ⟨x, hs⟩ | ⟨a, v, r, _, _, hs⟩ | ⟨a, v, l, _, hl, hs⟩
  · rw [hs]
    exact h.of_regs _ _ _ _ _ _
  · have hw : (if s.busy then s.dropWrite else r.write s v).Inv := by
      split
      · exact h.dropWrite
      · exact h.writeWord r v
    rw [hs]
    exact hw.of_regs _ _ _ _ _ _
  · have hw : (if s.busy then s.dropWrite else l.write s v).Inv := by
      split
      · exact h.dropWrite
      · exact h.writeByte hl v
    rw [hs]
    exact hw.of_regs _ _ _ _ _ _

/-! ## Commits -/

theorem State.Inv.withPixels {s : State} (h : s.Inv) {px : List Rgba} (hfit : 4 * px.length ≤ s.params.outSize) :
    (s.withPixels px).Inv :=
  have ⟨_, ⟨_, hmax, _⟩, _⟩ := Params.wf_bounds h.params
  have hlen : (s.withPixels px).outLen.toNat = 4 * px.length := by
    rw [State.withPixels_outLen, BitVec.toNat_ofNat, Nat.mod_eq_of_lt (by omega)]
  { params := h.params
    lifecycle := h.lifecycle.of_eq rfl rfl rfl
    memory := h.memory.of_writeBytes (b := .out) (i := 0) (by simpa [Buf.capacity] using hfit) rfl rfl
    lengths :=
      { outLen_le := hlen ▸ hfit
        outLen_mod := by omega
        mxRlen_le := h.lengths.mxRlen_le }
    reserved := h.reserved.of_read_ne (r := .outLen) BitVec.and_zero fun q hq => by cases q <;> trivial }

theorem State.Inv.withMxResult {s : State} (h : s.Inv) {bs : List Byte} (hfit : bs.length ≤ 2 * s.params.mxSize) :
    (s.withMxResult bs).Inv :=
  have ⟨_, _, _, hmax⟩ := Params.wf_bounds h.params
  have hlen : (s.withMxResult bs).mxRlen.toNat = bs.length := by
    rw [State.withMxResult_mxRlen, BitVec.toNat_ofNat, Nat.mod_eq_of_lt (by omega)]
  { params := h.params
    lifecycle := h.lifecycle.of_eq rfl rfl rfl
    memory := h.memory.of_writeBytes (b := .mxR) (i := 0) (by simpa [Buf.capacity] using hfit) rfl rfl
    lengths :=
      { outLen_le := h.lengths.outLen_le
        outLen_mod := h.lengths.outLen_mod
        mxRlen_le := hlen ▸ hfit }
    reserved := h.reserved.of_read_ne (r := .mxRlen) BitVec.and_zero fun q hq => by cases q <;> trivial }

theorem ofNat_and_not_mask16 {x : Nat} (hx : x < 65536) : BitVec.ofNat 32 x &&& ~~~0x0000FFFF#32 = 0 :=
  and_not_lowMask (k := 16) (by rw [BitVec.toNat_ofNat]; omega)

/-- DEC.COPYRECT stores two 16-bit numbers (R185), so that the upper halves of SRC_X and SRC_Y stay 0 (R32). -/
theorem State.Inv.withSource {s : State} (h : s.Inv) {x y : Nat} (hx : x < 65536) (hy : y < 65536) :
    State.Inv { s with srcX := BitVec.ofNat 32 x, srcY := BitVec.ofNat 32 y } where
  params := h.params
  lifecycle := h.lifecycle.of_eq rfl rfl rfl
  memory := h.memory.of_eq rfl rfl
  lengths := h.lengths.of_eq rfl rfl rfl
  reserved := by
    have hsrcX : ReservedInv { s with srcX := BitVec.ofNat 32 x } :=
      h.reserved.of_read_ne (r := .srcX) (ofNat_and_not_mask16 hx) fun q hq => by cases q <;> trivial
    exact hsrcX.of_read_ne (r := .srcY) (ofNat_and_not_mask16 hy) fun q hq => by cases q <;> trivial

theorem State.Inv.commit {s u : State} (h : s.Inv) (hu : Commit s u) : u.Inv := by
  cases hu with
  | unchanged => exact h
  | desOut d => exact h.of_regs _ _ _ _ _ _
  | source x y hx hy => exact h.withSource hx hy
  | pixels px hfit => exact h.withPixels hfit
  | mxResult bs hfit => exact h.withMxResult hfit

/-! ## Reset and CLEAR -/

/-- The reset values (R52) meet the invariant with any legal parameters and any buffer contents in canonical form. -/
theorem State.inv_of_reset {p : Params} {m : Memory} (hp : p.wf = true) (hwf : m.wf)
    (hmapped : ∀ c ∈ m.cells, (bufAt p c.1).isSome = true) (es : List Event) :
    State.Inv { State.reset with mem := m, params := p, sched := es } where
  params := hp
  lifecycle :=
    { idle_flags := by simp [State.reset, State.busy]
      err_code := by simp [State.reset, State.err]
      ok_code := fun _ => ⟨rfl, rfl⟩
      code_range := Nat.zero_le _ }
  memory := ⟨hwf, hmapped⟩
  lengths := ⟨Nat.zero_le _, rfl, Nat.zero_le _⟩
  reserved := by
    intro r
    cases r with
    | id | capIn | capOut | capMx => exact BitVec.and_zero
    | _ => exact BitVec.zero_and

theorem State.Inv.afterReset {s : State} (h : s.Inv) (fill : Fill) (cells : List Host.Cell) :
    (s.afterReset fill cells).Inv :=
  State.inv_of_reset h.params (resetMemory_wf s.params fill cells) (resetMemory_mapped s.params fill cells) s.sched

/-- With its completion, CLEAR leaves the reset values but for the lifecycle registers and the last response (R231). -/
theorem State.Inv.clear {s : State} (h : s.Inv) : s.cleared.completeOk.Inv :=
  have hreset : State.Inv { State.reset with mem := ⟨.zero, []⟩, params := s.params, sched := s.sched } :=
    State.inv_of_reset h.params (Memory.wf_blank _) (by simp) _
  (hreset.of_regs State.reset.desKey State.reset.desIn State.reset.desOut 0 s.resp s.sched).of_lifecycle
    ⟨by simp, by simp, by simp, by simp⟩ (statusWord_reserved _ _ _ _) rfl

/-! ## Every step -/

theorem State.Inv.engineStep {s t : State} (h : s.Inv) (hstep : engineStep s = .next t) : t.Inv := by
  rcases engineStep_cases hstep with ⟨_, rfl⟩ | ⟨_, rfl⟩ | ⟨u, hu, rfl⟩ | ⟨e, rfl⟩
  · exact h
  · exact h.clear
  · exact (h.commit hu).completeOk
  · exact h.completeErr e

/-- Settles O13: `State.reset` is the reset values with the reference parameters and nothing listed. -/
theorem invariantHoldsAtReset : Obligations.InvariantHoldsAtReset :=
  State.inv_of_reset (p := Config.reference) (by decide) (Memory.wf_blank (.unspecified 0)) (by simp) []

/-- Settles O14: by the mover of the step, the engine, a port transaction or a reset. -/
theorem everyStepKeepsTheInvariant : Obligations.EveryStepKeepsTheInvariant := by
  intro s t h hstep
  have hpop : s.popEvent.Inv := h.of_regs _ _ _ _ _ _
  rcases step_cases hstep with heng | ⟨op, rfl⟩ | ⟨fill, cells, rfl⟩
  · exact hpop.engineStep heng
  · exact hpop.portStep op
  · exact hpop.afterReset fill cells

end Sys2Proof.Machine
end

section
/-! PROOFS. What the host's traffic while BUSY = 1 leaves (R86), and that no command reads it (R73, R277). -/

namespace Sys2Proof.Machine

open Sys2Proof.Claims

/-! ## What traffic leaves -/

/-- The state with another STATUS word and another last response: all that port traffic can change while BUSY = 1. -/
def State.withTraffic (s : State) (x : Word) (r : Option PortResp) : State := { s with status := x, resp := r }

/-- R86: while BUSY = 1 a transaction is a read, a bus error or a dropped write. -/
theorem portStep_of_busy {s : State} (hb : s.busy = true) (op : PortOp) :
    (portStep s op).busy = true ∧ ∃ x r, portStep s op = s.withTraffic x r := by
  rcases portStep_cases s op with ⟨r, h⟩ | ⟨_, _, _, _, _, h⟩ | ⟨_, _, _, _, _, h⟩
  · exact ⟨by rw [h]; exact hb, s.status, r, h⟩
  all_goals
    rw [if_pos hb] at h
    exact ⟨by rw [h]; exact s.dropWrite_busy.trans hb, _, _, h⟩

theorem foldl_portStep_of_busy (ops : List PortOp) {s : State} (hb : s.busy = true) :
    (ops.foldl portStep s).busy = true ∧ ∃ x r, ops.foldl portStep s = s.withTraffic x r := by
  induction ops generalizing s with
  | nil => exact ⟨hb, s.status, s.resp, rfl⟩
  | cons op ops ih =>
    obtain ⟨hbusy, x, r, hop⟩ := portStep_of_busy hb op
    obtain ⟨hbusy', x', r', hops⟩ := ih hbusy
    exact ⟨hbusy', x', r', by rw [List.foldl_cons, hops, hop]; rfl⟩

/-! ## What the commands do not read

Each rule fetches its operands, checks them and commits, and no such part sees STATUS or the last response; so the map
that changes these two passes through the rule's `do`, down to its commit. -/

section
variable (s : State) (x : Word) (r : Option PortResp)

theorem pxConv_withTraffic : pxConv (s.withTraffic x r) = (·.withTraffic x r) <$> pxConv s := by
  simp only [pxConv, map_bind, apply_ite (Functor.map (f := Except CmdError) _)]
  rfl

theorem decRaw_withTraffic : decRaw (s.withTraffic x r) = (·.withTraffic x r) <$> decRaw s := by
  simp only [decRaw, map_bind]
  rfl

theorem decCopyrect_withTraffic : decCopyrect (s.withTraffic x r) = (·.withTraffic x r) <$> decCopyrect s := by
  simp only [decCopyrect, map_bind]
  rfl

theorem decRre_withTraffic : decRre (s.withTraffic x r) = (·.withTraffic x r) <$> decRre s := by
  simp only [decRre, map_bind]
  rfl

theorem decHextile_withTraffic : decHextile (s.withTraffic x r) = (·.withTraffic x r) <$> decHextile s := by
  simp only [decHextile, map_bind]
  rfl

theorem mxWriteBack_withTraffic (v : Nat) :
    mxWriteBack (s.withTraffic x r) v = (·.withTraffic x r) <$> mxWriteBack s v := by
  simp only [mxWriteBack, apply_ite (Functor.map (f := Except CmdError) _)]
  rfl

theorem mxModpow_withTraffic : mxModpow (s.withTraffic x r) = (·.withTraffic x r) <$> mxModpow s := by
  simp only [mxModpow, map_bind, mxWriteBack_withTraffic]
  rfl

theorem mxMod_withTraffic : mxMod (s.withTraffic x r) = (·.withTraffic x r) <$> mxMod s := by
  simp only [mxMod, map_bind, mxWriteBack_withTraffic, apply_ite (Functor.map (f := Except CmdError) _)]
  rfl

theorem mxMul_withTraffic : mxMul (s.withTraffic x r) = (·.withTraffic x r) <$> mxMul s := by
  simp only [mxMul, map_bind, mxWriteBack_withTraffic]
  rfl

end

/-! ## What the completions leave -/

theorem butOvrAndResp_completeOk (u : State) (x : Word) (r : Option PortResp) :
    butOvrAndResp (u.withTraffic x r).completeOk = butOvrAndResp u.completeOk := by
  simp only [butOvrAndResp, State.completeOk_busy, State.completeOk_done, State.completeOk_err]
  rfl

theorem butOvrAndResp_completeErr (s : State) (x : Word) (r : Option PortResp) (e : CmdError) :
    butOvrAndResp ((s.withTraffic x r).completeErr e) = butOvrAndResp (s.completeErr e) := by
  simp only [butOvrAndResp, State.completeErr_busy, State.completeErr_done, State.completeErr_err]
  rfl

/-- A command whose updates traffic passes through ends alike. The updates may set STATUS too, as CLEAR does. -/
theorem finish_withTraffic (s : State) (x : Word) (r : Option PortResp) {t u : State} {x' : Word}
    {result result' : Except CmdError State} (hresult : result' = (·.withTraffic x' r) <$> result)
    (ht : finish s result = .next t) (hu : finish (s.withTraffic x r) result' = .next u) :
    butOvrAndResp u = butOvrAndResp t := by
  subst hresult
  rcases finish_eq_next ht with ⟨t', rfl, rfl⟩ | ⟨e, rfl, rfl⟩
  · obtain rfl := Host.Outcome.next.inj hu
    exact butOvrAndResp_completeOk t' x' r
  · obtain rfl := Host.Outcome.next.inj hu
    exact butOvrAndResp_completeErr s x r e

theorem exec_withTraffic {i : Instr} {s t u : State} {x : Word} {r : Option PortResp} (ht : exec i s = .next t)
    (hu : exec i (s.withTraffic x r) = .next u) : butOvrAndResp u = butOvrAndResp t := by
  cases i with
  | nop => exact finish_withTraffic s x r (result := .ok s) rfl ht hu
  | clear => exact finish_withTraffic s x r (result := .ok s.cleared) rfl ht hu
  | desEnc kr => exact finish_withTraffic s x r (result := .ok { s with desOut := _ }) rfl ht hu
  | mxModpow => exact finish_withTraffic s x r (mxModpow_withTraffic s x r) ht hu
  | mxMod => exact finish_withTraffic s x r (mxMod_withTraffic s x r) ht hu
  | mxMul => exact finish_withTraffic s x r (mxMul_withTraffic s x r) ht hu
  | pxConv => exact finish_withTraffic s x r (pxConv_withTraffic s x r) ht hu
  | decRaw => exact finish_withTraffic s x r (decRaw_withTraffic s x r) ht hu
  | decCopyrect => exact finish_withTraffic s x r (decCopyrect_withTraffic s x r) ht hu
  | decRre => exact finish_withTraffic s x r (decRre_withTraffic s x r) ht hu
  | decHextile => exact finish_withTraffic s x r (decHextile_withTraffic s x r) ht hu

/-- R73: the engine's step of a pending word ends alike; PEND itself is none of what traffic changes. -/
theorem engineStep_withTraffic {s t u : State} {x : Word} {r : Option PortResp} (hb : s.busy = true)
    (hb' : (s.withTraffic x r).busy = true) (ht : engineStep s = .next t)
    (hu : engineStep (s.withTraffic x r) = .next u) : butOvrAndResp u = butOvrAndResp t := by
  have hpend : (s.withTraffic x r).pend = s.pend := rfl
  rw [engineStep, if_pos hb] at ht
  rw [engineStep, if_pos hb', hpend] at hu
  cases hd : decode s.pend with
  | ok i =>
    rw [hd] at ht hu
    exact exec_withTraffic ht hu
  | error e =>
    rw [hd] at ht hu
    obtain rfl := Host.Outcome.next.inj ht
    obtain rfl := Host.Outcome.next.inj hu
    exact butOvrAndResp_completeErr s x r ⟨.cmd, s.pend⟩

/-- Settles O12: the traffic leaves at most STATUS and the response different, and no more than OVR and the response
of these lasts beyond the completion. -/
theorem busyTrafficDoesNotReachTheCommand : Obligations.BusyTrafficDoesNotReachTheCommand := by
  intro ops s t u hb ht hu
  obtain ⟨hb', x, r, hops⟩ := foldl_portStep_of_busy ops hb
  rw [hops] at hb' hu
  exact engineStep_withTraffic hb hb' ht hu

end Sys2Proof.Machine
end

section
/-! PROOFS. The address map as literal ranges (R61): which accesses are bus errors (R64), and what a byte write is seen
through (R69): the location at its own offset alone. -/

namespace Sys2Proof.Machine

open Sys2Proof.Claims

/-! ## The offsets that the map has -/

/-- The word registers stand at the multiples of 4 in their three ranges. -/
theorem wordAt_eq_none_iff {a : Nat} : wordAt a = none ↔ ¬WordMapped a := by
  have hoffset (r : WordReg) : WordMapped r.offset := by
    unfold WordMapped
    cases r <;> decide
  have hmapped : ∀ k ≤ 0x24, WordMapped (4 * k) → (wordAt (4 * k)).isSome = true := by
    unfold WordMapped
    decide
  constructor
  · rintro hnone ⟨halign, hrange⟩
    obtain ⟨k, rfl⟩ := Nat.dvd_of_mod_eq_zero halign
    simpa [hnone] using hmapped k (by omega) ⟨halign, hrange⟩
  · intro hunmapped
    rw [Option.eq_none_iff_forall_ne_some]
    exact fun r hr => hunmapped (offset_of_wordAt hr ▸ hoffset r)

theorem bufAt_eq_none_iff {p : Params} {a : Nat} :
    bufAt p a = none ↔ ¬∃ b : Buf, b.base ≤ a ∧ a < b.base + b.capacity p := by
  constructor
  · rintro hnone ⟨b, hb⟩
    simpa [hnone] using bufAt_isSome hb
  · intro h
    rw [Option.eq_none_iff_forall_ne_some]
    exact fun b hb => h ⟨b, holds_of_bufAt hb⟩

/-- The byte-wide offsets are the three DES regions, which stand side by side, and the windows of the buffers. -/
theorem byteMapped_iff {p : Params} {a : Nat} :
    ByteMapped p a ↔ (0x100 ≤ a ∧ a < 0x118) ∨ ∃ b : Buf, b.base ≤ a ∧ a < b.base + b.capacity p := by
  constructor
  · rintro (h | h | h | h | h | h | h)
    · exact .inl h
    · exact .inr ⟨.mxA, h⟩
    · exact .inr ⟨.mxB, h⟩
    · exact .inr ⟨.mxM, h⟩
    · exact .inr ⟨.mxR, h⟩
    · exact .inr ⟨.inp, h⟩
    · exact .inr ⟨.out, h⟩
  · rintro (h | ⟨b, h⟩)
    · exact .inl h
    · unfold ByteMapped
      cases b <;> simp only [Buf.base, Buf.capacity] at h <;> omega

theorem byteLocAt_eq_none_iff {p : Params} {a : Nat} : byteLocAt p a = none ↔ ¬ByteMapped p a := by
  have hkey : desKeyBase = 0x100 := rfl
  have hin : desInBase = 0x108 := rfl
  have hout : desOutBase = 0x110 := rfl
  rw [byteMapped_iff, not_or, ← bufAt_eq_none_iff, byteLocAt]
  split_ifs
  · exact iff_of_false nofun fun h => h.1 (by omega)
  · exact iff_of_false nofun fun h => h.1 (by omega)
  · exact iff_of_false nofun fun h => h.1 (by omega)
  · cases bufAt p a with
    | none => exact iff_of_true rfl ⟨by omega, rfl⟩
    | some b => exact iff_of_false nofun fun h => nomatch h.2

/-! ## Bus errors -/

/-- An access that the address map does not have (R64). -/
def PortOp.Unmapped (p : Params) (op : PortOp) : Prop :=
  match op with
  | .read8 a => byteLocAt p a.toNat = none
  | .read32 a => wordAt a.toNat = none
  | .write8 a _ => byteLocAt p a.toNat = none
  | .write32 a _ => wordAt a.toNat = none

/-- R64: a bus error changes nothing but the response. -/
theorem portStep_of_unmapped {s : State} {op : PortOp} (h : op.Unmapped s.params) :
    portStep s op = { s with resp := some .error } := by
  cases op with
  | read8 a => simp only [portStep, portRead8, show byteLocAt s.params a.toNat = none from h]
  | read32 a => simp only [portStep, portRead32, show wordAt a.toNat = none from h]
  | write8 a v => simp only [portStep, portWrite8, show byteLocAt s.params a.toNat = none from h]
  | write32 a v => simp only [portStep, portWrite32, show wordAt a.toNat = none from h]

/-- R62, R64: at an offset that the map has, the response is the value read or the OK of the write. -/
theorem portStep_resp_error_iff {s : State} {op : PortOp} :
    (portStep s op).resp = some .error ↔ op.Unmapped s.params := by
  cases op with
  | read8 a => cases h : byteLocAt s.params a.toNat <;> simp [portStep, portRead8, PortOp.Unmapped, h]
  | read32 a => cases h : wordAt a.toNat <;> simp [portStep, portRead32, PortOp.Unmapped, h]
  | write8 a v => cases h : byteLocAt s.params a.toNat <;> simp [portStep, portWrite8, PortOp.Unmapped, h]
  | write32 a v => cases h : wordAt a.toNat <;> simp [portStep, portWrite32, PortOp.Unmapped, h]

/-- Settles O17: an access answers ERROR when its offset carries no location, and the locations of the map stand at
the offsets of the literal ranges. -/
theorem busErrorsExactly : Obligations.BusErrorsExactly := by
  intro s a
  have hword : wordAt a.toNat = none ↔ ¬WordMapped a.toNat := wordAt_eq_none_iff
  have hbyte : byteLocAt s.params a.toNat = none ↔ ¬ByteMapped s.params a.toNat := byteLocAt_eq_none_iff
  exact ⟨portStep_resp_error_iff.trans hword, portStep_resp_error_iff.trans hbyte,
    fun v => ⟨portStep_resp_error_iff.trans hword,
      fun h => portStep_of_unmapped (op := .write32 a v) (hword.mpr h)⟩,
    fun v => ⟨portStep_resp_error_iff.trans hbyte,
      fun h => portStep_of_unmapped (op := .write8 a v) (hbyte.mpr h)⟩,
    fun h => portStep_of_unmapped (op := .read32 a) (hword.mpr h),
    fun h => portStep_of_unmapped (op := .read8 a) (hbyte.mpr h)⟩

/-! ## A byte write and what a byte-wide location then reads -/

/-- The offset of a byte-wide location (R61). -/
def ByteLoc.offset (l : ByteLoc) : Nat :=
  match l with
  | .desKey i => desKeyBase + i
  | .desIn i => desInBase + i
  | .desOut i => desOutBase + i
  | .buf b i => b.base + i

theorem offset_of_byteLocAt {p : Params} {a : Nat} {l : ByteLoc} (h : byteLocAt p a = some l) : l.offset = a := by
  rcases byteLocAt_eq_some h with ⟨i, rfl, ha⟩ | ⟨i, rfl, ha⟩ | ⟨i, rfl, ha⟩ | ⟨b, i, rfl, _, ha⟩
  all_goals exact ha.symm

@[simp] theorem Memory.read_write_self (m : Memory) (a : Nat) (v : Byte) : (m.write a v).read a = v :=
  Memory.read_writeBytes_add (bs := [v]) (i := 0) Nat.one_pos

theorem Memory.read_write_of_ne {m : Memory} {a b : Nat} (h : b ≠ a) (v : Byte) : (m.write a v).read b = m.read b :=
  Memory.read_writeBytes_of_not_mem (by simp only [List.length_singleton]; omega)

/-- R69: a byte write is seen at no offset but its own. -/
theorem ByteLoc.read_write_of_ne {l m : ByteLoc} (h : m.offset ≠ l.offset) (s : State) (v : Byte) :
    m.read (l.write s v) = m.read s := by
  cases l with
  | desKey i => exact m.read_congr rfl rfl rfl
  | desOut i => rfl
  | desIn i =>
    cases m with
    | desIn j =>
      have hij : i.val ≠ j.val := fun hij => h (by simp only [ByteLoc.offset, hij])
      exact Vector.getElem_set_ne i.isLt j.isLt hij
    | _ => rfl
  | buf b i =>
    rw [ByteLoc.write]
    split
    · rfl
    · cases m with
      | buf c j => exact Memory.read_write_of_ne h v
      | _ => rfl

/-- The locations that ignore a host write (R35, R45, R47). -/
def ByteLoc.readOnly (l : ByteLoc) : Bool :=
  match l with
  | .desKey _ => false
  | .desIn _ => false
  | .desOut _ => true
  | .buf b _ => b.readOnly

theorem ByteLoc.write_of_readOnly {l : ByteLoc} (h : l.readOnly = true) (s : State) (v : Byte) : l.write s v = s := by
  cases l with
  | desKey i | desIn i => contradiction
  | desOut i => rfl
  | buf b i => exact if_pos h

/-- R69: a location that is neither read-only nor write-only reads back what was written. -/
theorem ByteLoc.read_write_self {l : ByteLoc} (hro : l.readOnly = false) (hkey : ∀ i, l ≠ .desKey i) (s : State)
    (v : Byte) : l.read (l.write s v) = v := by
  cases l with
  | desKey i => exact absurd rfl (hkey i)
  | desIn i => exact Vector.getElem_set_self i.isLt
  | desOut i => contradiction
  | buf b i =>
    have hb : ¬b.readOnly = true := by simpa [ByteLoc.readOnly] using hro
    rw [ByteLoc.write, if_neg hb]
    exact Memory.read_write_self s.mem _ v

theorem WordReg.read_byteWrite (r : WordReg) (l : ByteLoc) (s : State) (v : Byte) :
    r.read (l.write s v) = r.read s := by
  cases l with
  | desKey i | desIn i | desOut i => exact r.read_of_regs s _ _ _ _ _ _ _
  | buf b i =>
    rw [ByteLoc.write]
    split
    · rfl
    · exact r.read_of_regs s _ _ _ _ _ _ _

@[simp] theorem ByteLoc.write_pend (l : ByteLoc) (s : State) (v : Byte) : (l.write s v).pend = s.pend := by
  cases l with
  | buf b i => cases b <;> rfl
  | _ => rfl

/-- R33: what DES_KEY holds changes by no write outside it. -/
theorem ByteLoc.write_desKey {l : ByteLoc} (h : ∀ i, l ≠ .desKey i) (s : State) (v : Byte) :
    (l.write s v).desKey = s.desKey := by
  cases l with
  | desKey i => exact absurd rfl (h i)
  | buf b i => cases b <;> rfl
  | _ => rfl

/-! ## Where the kinds of byte-wide location stand -/

/-- R33: DES_KEY stands below all other byte-wide locations. -/
theorem desKey_iff_lt {p : Params} {a : Nat} {l : ByteLoc} (hl : byteLocAt p a = some l) :
    (∃ i, l = .desKey i) ↔ a < 0x108 := by
  rcases byteLocAt_eq_some hl with ⟨i, rfl, rfl⟩ | ⟨i, rfl, rfl⟩ | ⟨i, rfl, rfl⟩ | ⟨b, i, rfl, _, rfl⟩
  · exact iff_of_true ⟨i, rfl⟩ (by simp only [desKeyBase]; omega)
  · exact iff_of_false nofun (by simp only [desInBase]; omega)
  · exact iff_of_false nofun (by simp only [desOutBase]; omega)
  · exact iff_of_false nofun (by cases b <;> simp only [Buf.base] <;> omega)

/-- R35, R45, R47: under legal parameters DES_OUT, MX_R and OUT, and they alone, stand in these ranges. -/
theorem readOnly_iff_range {p : Params} (hp : p.wf = true) {a : Nat} {l : ByteLoc} (hl : byteLocAt p a = some l) :
    l.readOnly = true ↔
      (0x110 ≤ a ∧ a < 0x118) ∨ (0x040000 ≤ a ∧ a < 0x060000) ∨ 0x4000000 ≤ a := by
  have hbounds := Params.wf_bounds hp
  rcases byteLocAt_eq_some hl with ⟨i, rfl, rfl⟩ | ⟨i, rfl, rfl⟩ | ⟨i, rfl, rfl⟩ | ⟨b, i, rfl, hi, rfl⟩
  · exact iff_of_false nofun (by simp only [desKeyBase]; omega)
  · exact iff_of_false nofun (by simp only [desInBase]; omega)
  · exact iff_of_true rfl (by simp only [desOutBase]; omega)
  · cases b with
    | out | mxR => exact iff_of_true rfl (by simp only [Buf.base, Buf.capacity] at hi ⊢; omega)
    | inp | mxA | mxB | mxM => exact iff_of_false nofun (by simp only [Buf.base, Buf.capacity] at hi ⊢; omega)

/-! ## The byte write at the port -/

theorem portStep_read8_resp {s : State} {a : Offset} {l : ByteLoc} (ha : byteLocAt s.params a.toNat = some l) :
    (portStep s (.read8 a)).resp = some (.byte (l.read s)) := by
  simp only [portStep, portRead8, ha]

theorem portStep_read8_resp_congr {s t : State} {b : Offset} (hparams : t.params = s.params)
    (hread : ∀ m, byteLocAt s.params b.toNat = some m → m.read t = m.read s) :
    (portStep t (.read8 b)).resp = (portStep s (.read8 b)).resp := by
  cases hm : byteLocAt s.params b.toNat with
  | none => rw [portStep_of_unmapped (op := .read8 b) hm, portStep_of_unmapped (op := .read8 b) (hparams ▸ hm)]
  | some m => rw [portStep_read8_resp hm, portStep_read8_resp (hparams ▸ hm), hread m hm]

/-- Settles O20: the write goes to the location `l` at `a`, and the kind of `l`, which its offset tells, says what it
then reads. -/
theorem byteWriteChangesOneLocation : Obligations.ByteWriteChangesOneLocation := by
  intro s a v hp hb hmapped
  obtain ⟨l, hl⟩ : ∃ l, byteLocAt s.params a.toNat = some l :=
    Option.ne_none_iff_exists'.mp fun hnone => byteLocAt_eq_none_iff.mp hnone hmapped
  have hstep := portStep_write8 hl hb v
  have hparams := portStep_params s (.write8 a v)
  have hread (m : ByteLoc) : m.read (portStep s (.write8 a v)) = m.read (l.write s v) := by
    rw [hstep]
    exact m.read_congr rfl rfl rfl
  refine ⟨fun b hba => ?others, ?self, fun ha => ?key, fun r => ?word, ?pend⟩
  case others =>
    refine portStep_read8_resp_congr hparams fun m hm => (hread m).trans (ByteLoc.read_write_of_ne ?_ s v)
    rw [offset_of_byteLocAt hm, offset_of_byteLocAt hl]
    exact BitVec.toNat_ne.mp hba
  case self =>
    rw [portStep_read8_resp (hparams ▸ hl), portStep_read8_resp hl, hread]
    split_ifs with hlow hrange
    · obtain ⟨i, rfl⟩ := (desKey_iff_lt hl).mpr hlow
      rfl
    · rw [ByteLoc.write_of_readOnly ((readOnly_iff_range hp hl).mpr hrange)]
    · rw [← desKey_iff_lt hl, not_exists] at hlow
      rw [← readOnly_iff_range hp hl, Bool.not_eq_true] at hrange
      rw [ByteLoc.read_write_self hrange hlow]
  case key =>
    rw [← Nat.not_lt, ← desKey_iff_lt hl, not_exists] at ha
    rw [hstep]
    exact ByteLoc.write_desKey ha s v
  case word =>
    rw [hstep]
    exact (r.read_of_regs _ _ _ _ _ _ _ _).trans (r.read_byteWrite l s v)
  case pend =>
    rw [hstep]
    exact l.write_pend s v

end Sys2Proof.Machine
end

section
/-! PROOFS. The decoder (R80, R82 to R84, R94): a command word and its three fields determine each other, which fields
decode and to what, which words are illegal, and what the engine makes of the pending word. -/

namespace Sys2Proof

open Sys2Proof.Claims

/-! ## A word and its fields -/

/-- R80: the three fields of format C leave out no bit of a word. -/
theorem CommandFields.toWord_ofWord (w : Word) : (CommandFields.ofWord w).toWord = w := by
  refine BitVec.eq_of_getLsbD_eq fun i hi => ?_
  rcases Nat.lt_trichotomy i 8 with hop | rfl | hzero
  · simp [CommandFields.toWord, CommandFields.ofWord, hop, show i < 9 by omega, hi]
  · simp [CommandFields.toWord, CommandFields.ofWord]
  · have hbits : ¬i < 8 ∧ ¬i < 9 ∧ i - 8 ≠ 0 ∧ i - 9 < 23 ∧ 9 + (i - 9) = i := by omega
    simp [CommandFields.toWord, CommandFields.ofWord, hbits, hi]

theorem CommandFields.ofWord_injective : Function.Injective CommandFields.ofWord :=
  Function.LeftInverse.injective CommandFields.toWord_ofWord

/-! ## The opcode map -/

/-- R82: the map has the eleven OP values, whatever KR is. -/
theorem opcodeMap_eq_none_iff {op : Byte} {kr : Bool} : opcodeMap op kr = none ↔ op ∉ opcodes := by
  unfold opcodeMap
  split
  case h_12 => simp_all [opcodes]
  all_goals exact iff_of_false nofun (not_not.mpr (by decide))

/-- R82: with KR = 0 the command at OP is encoded by OP alone. -/
theorem ofWord_encode_of_opcodeMap {op : Byte} {i : Instr} (h : opcodeMap op false = some i) :
    CommandFields.ofWord (encode i) = ⟨op, false, 0⟩ := by
  unfold opcodeMap at h
  split at h
  all_goals cases h <;> rfl

/-! ## Decoding -/

/-- R94: a word decodes to the command at its OP when none of the clauses (a), (b), (c) applies. -/
theorem decodeFields_eq_ok_iff {c : CommandFields} {i : Instr} :
    decodeFields c = .ok i ↔ c.zero = 0 ∧ opcodeMap c.op c.kr = some i ∧ (c.kr = true → c.op = 0x10#8) := by
  unfold decodeFields
  by_cases hzero : c.zero = 0
  · rw [if_neg (not_not.mpr hzero), and_iff_right hzero]
    cases opcodeMap c.op c.kr with
    | none => simp
    | some j =>
      by_cases hkr : c.kr = true → c.op = 0x10#8
      · simp only [if_neg (not_and_not_right.mpr hkr), Except.ok.injEq, Option.some.injEq, and_iff_left hkr]
      · simp only [if_pos (Classical.not_imp.mp hkr), reduceCtorEq, and_false, hkr]
  · rw [if_pos hzero]
    exact iff_of_false nofun fun h => hzero h.1

theorem decode_eq_ok_iff {w : Word} {i : Instr} :
    decode w = .ok i ↔
      zeroField w = 0 ∧ opcodeMap (opField w) (w.getLsbD 8) = some i ∧ (w.getLsbD 8 = true → opField w = 0x10#8) :=
  decodeFields_eq_ok_iff

/-- R82, R83: the word of every command decodes to that command. -/
theorem decode_encode (i : Instr) : decode (encode i) = .ok i := by
  cases i with
  | desEnc kr => cases kr <;> rfl
  | _ => rfl

/-- The fields that decode to a command are those of its word: KR is 0 except in the second word of DES.ENC. -/
theorem ofWord_encode_of_decodeFields {c : CommandFields} {i : Instr} (h : decodeFields c = .ok i) :
    CommandFields.ofWord (encode i) = c := by
  obtain ⟨op, kr, zero⟩ := c
  obtain ⟨rfl, hmap, hkr⟩ := decodeFields_eq_ok_iff.mp h
  cases kr with
  | false => exact ofWord_encode_of_opcodeMap hmap
  | true =>
    obtain rfl : op = 0x10#8 := hkr rfl
    cases hmap
    rfl

theorem encode_of_decode {w : Word} {i : Instr} (h : decode w = .ok i) : encode i = w :=
  CommandFields.ofWord_injective (ofWord_encode_of_decodeFields h)

/-- Settles O1: a word and its fields determine each other, and the fields that decode to a command are those of its
word. -/
theorem decodeAndEncodeAgree : Obligations.DecodeAndEncodeAgree :=
  ⟨fun i _ => decode_encode i, fun _ _ => encode_of_decode⟩

/-- Settles O2: the six are the words of their commands. -/
theorem tableWordsDecode : Obligations.TableWordsDecode :=
  ⟨decode_encode .clear, decode_encode (.desEnc true), decode_encode (.desEnc false), decode_encode .mxMul,
    decode_encode .pxConv, decode_encode .decHextile⟩

/-! ## Illegal words -/

theorem not_illegalWord_iff {w : Word} : ¬IllegalWord w ↔ ∃ i, decode w = .ok i := by
  simp only [decode_eq_ok_iff, IllegalWord, not_or, not_not, ← opcodeMap_eq_none_iff (kr := w.getLsbD 8),
    Option.ne_none_iff_exists', exists_and_left, exists_and_right, not_and]

/-- R84: the decoder refuses exactly the words of the three clauses. -/
theorem illegalWord_iff {w : Word} : IllegalWord w ↔ ∃ e, decode w = .error e := by
  rw [← not_iff_not, not_illegalWord_iff]
  cases decode w <;> simp

/-- R84: the legal words are the words of the commands, and these are the twelve listed. -/
theorem not_illegalWord_iff_mem {w : Word} : ¬IllegalWord w ↔ w ∈ legalWords := by
  have hencode (i : Instr) : encode i ∈ legalWords := by
    cases i with
    | desEnc kr => cases kr <;> decide
    | _ => decide
  rw [not_illegalWord_iff]
  constructor
  · rintro ⟨i, hi⟩
    exact encode_of_decode hi ▸ hencode i
  · intro hw
    fin_cases hw <;> exact ⟨_, rfl⟩

end Sys2Proof

namespace Sys2Proof.Machine

open Sys2Proof.Claims

/-! ## The engine and the pending word -/

/-- R94 (d): the engine runs the command of the pending word. -/
theorem engineStep_of_decode {s : State} (hb : s.busy = true) {i : Instr} (h : decode s.pend = .ok i) :
    engineStep s = exec i s := by
  simp only [engineStep, if_pos hb, h]

/-- R94 (a) to (c), R242: an illegal pending word completes with ERR_CMD and the word. -/
theorem engineStep_of_illegalWord {s : State} (hb : s.busy = true) (h : IllegalWord s.pend) :
    engineStep s = .next (s.completeErr ⟨.cmd, s.pend⟩) := by
  obtain ⟨e, he⟩ := illegalWord_iff.mp h
  simp only [engineStep, if_pos hb, he]

/-- Settles O3: the decoder refuses the words of R84, the port looks at no word that it accepts, and the engine turns a
refused one into an error. -/
theorem illegalWordsAreAcceptedAndFail : Obligations.IllegalWordsAreAcceptedAndFail := by
  refine ⟨fun w => illegalWord_iff.symm, fun w s _ hb => ?accepted, fun s hb h => engineStep_of_illegalWord hb h,
    by decide, rfl, fun w => not_illegalWord_iff_mem⟩
  rw [portStep_write32 (a := 0x004#27) (r := .cmd) rfl hb]
  exact ⟨s.acceptCommand_busy w, s.acceptCommand_pend w⟩

/-- Settles O4: each of the cases (a) to (c) is one clause of an illegal word, and in case (d) the word decodes to the
command at its OP. -/
theorem engineJudgesThePendingWord : Obligations.EngineJudgesThePendingWord := by
  intro s hb
  refine ⟨fun hzero => ?a, fun _ hop => ?b, fun _ _ hkr hop => ?c, fun hzero hop => ?des, fun hzero hkr => ?others⟩
  case a => exact engineStep_of_illegalWord hb (.inl hzero)
  case b => exact engineStep_of_illegalWord hb (.inr (.inl hop))
  case c => exact engineStep_of_illegalWord hb (.inr (.inr ⟨hkr, hop⟩))
  case des => exact engineStep_of_decode hb (decode_eq_ok_iff.mpr ⟨hzero, by rw [hop]; rfl, fun _ => hop⟩)
  case others =>
    have hrun {op : Byte} {i : Instr} (hmap : opcodeMap op false = some i) (hop : opField s.pend = op) :
        engineStep s = exec i s :=
      engineStep_of_decode hb (decode_eq_ok_iff.mpr ⟨hzero, by rw [hop, hkr, hmap], fun h => nomatch hkr.symm.trans h⟩)
    exact ⟨hrun rfl, hrun rfl, hrun rfl, hrun rfl, hrun rfl, hrun rfl, hrun rfl, hrun rfl, hrun rfl, hrun rfl⟩

end Sys2Proof.Machine
end

section
/-! PROOFS. The lifecycle of a command (R85 to R89): whose turn a step is, acceptance, the traffic while BUSY = 1, and
that the engine's step of every pending word completes. -/

namespace Sys2Proof.Machine

/-! ## Whose turn it is -/

/-- R280 (log 5): with no event waiting the engine moves. -/
theorem step_of_sched_nil {s : State} (h : s.sched = []) : step s = engineStep s := by
  have hpop : s.popEvent = s := by
    rw [State.popEvent, h, List.tail_nil, ← h]
  rw [step, State.nextEvent, h, hpop]
  rfl

/-- R71: else the first waiting event moves, and is taken off. -/
theorem step_of_sched_cons {s : State} {e : Event} {rest : List Event} (h : s.sched = e :: rest) :
    step s = eventStep e { s with sched := rest } := by
  rw [step, State.nextEvent, State.popEvent, h]
  rfl

/-- Settles O5: an empty schedule and one that begins with the engine's event both give the engine its turn. -/
theorem stepRunsTheDecodedCommand : Obligations.StepRunsTheDecodedCommand := by
  intro s i hb hi
  have hturn (rest : List Event) := engineStep_of_decode (s := { s with sched := rest }) hb hi
  exact ⟨fun hs => (step_of_sched_nil hs).trans (engineStep_of_decode hb hi),
    fun rest hs => (step_of_sched_cons hs).trans (hturn rest)⟩

/-! ## Acceptance -/

/-- R85: acceptance clears DONE, and with it irq. -/
@[simp] theorem State.acceptCommand_irq (s : State) (c : Word) : (s.acceptCommand c).irq = false := by
  rw [State.irq, State.acceptCommand_done, Bool.and_false]

/-- R85: a write to CMD with BUSY = 0 accepts the word. -/
theorem portStep_write32_cmd {s : State} (hb : s.busy = false) (c : Word) :
    portStep s (.write32 0x004#27 c) = { s.acceptCommand c with resp := some .written } :=
  portStep_write32 (r := .cmd) rfl hb c

/-- Settles O6: the host's turn writes CMD. -/
theorem acceptanceLatchesTheCommand : Obligations.AcceptanceLatchesTheCommand := by
  intro s c rest hb hs
  have haccept := portStep_write32_cmd (s := { s with sched := rest }) hb c
  exact ⟨_, (step_of_sched_cons hs).trans (congrArg Host.Outcome.next haccept), State.acceptCommand_busy _ c,
    State.acceptCommand_done _ c, State.acceptCommand_err _ c, State.acceptCommand_ovr _ c,
    State.acceptCommand_irq { s with sched := rest } c, rfl⟩

/-- R85: but for the three lifecycle registers a word register reads after an acceptance as before it. -/
theorem WordReg.read_acceptCommand {r : WordReg} (hstatus : r ≠ .status) (hcode : r ≠ .errcode) (hinfo : r ≠ .errinfo)
    (s : State) (c : Word) : r.read (s.acceptCommand c) = r.read s := by
  cases r with
  | status | errcode | errinfo => contradiction
  | _ => rfl

/-! ## The port while BUSY = 1 -/

theorem State.dropWrite_of_busy {s : State} (hb : s.busy = true) :
    s.dropWrite = { s with status := statusWord true s.done s.err true } := by
  rw [State.dropWrite, hb]

theorem portStep_write32_of_busy {s : State} {a : Offset} {r : WordReg} (ha : wordAt a.toNat = some r)
    (hb : s.busy = true) (v : Word) : portStep s (.write32 a v) = { s.dropWrite with resp := some .written } := by
  simp only [portStep, portWrite32, ha, hb, if_true]

theorem portStep_write8_of_busy {s : State} {a : Offset} {l : ByteLoc} (ha : byteLocAt s.params a.toNat = some l)
    (hb : s.busy = true) (v : Byte) : portStep s (.write8 a v) = { s.dropWrite with resp := some .written } := by
  simp only [portStep, portWrite8, ha, hb, if_true]

theorem portStep_pend_of_busy {s : State} (hb : s.busy = true) (op : PortOp) : (portStep s op).pend = s.pend := by
  obtain ⟨_, x, r, h⟩ := portStep_of_busy hb op
  rw [h]
  rfl

/-- R68: a read returns its location's value and changes nothing but the response. -/
theorem portStep_read8 {s : State} {a : Offset} {l : ByteLoc} (ha : byteLocAt s.params a.toNat = some l) :
    portStep s (.read8 a) = { s with resp := some (.byte (l.read s)) } := by
  simp only [portStep, portRead8, ha]

/-- Settles O7: by the rules for dropped writes, for reads, and for what an acceptance leaves. -/
theorem writesWhileBusyAreDropped : Obligations.WritesWhileBusyAreDropped := by
  refine ⟨fun s hb => ⟨fun a v r ha => ?write32, fun a v l ha => ?write8, fun op => ?traffic⟩,
    fun s => ⟨fun a r => portStep_read32, fun a l => portStep_read8⟩, fun s c => ?accepted⟩
  case write32 => rw [portStep_write32_of_busy ha hb, State.dropWrite_of_busy hb]
  case write8 => rw [portStep_write8_of_busy ha hb, State.dropWrite_of_busy hb]
  case traffic => exact ⟨(portStep_of_busy hb op).1, portStep_pend_of_busy hb op⟩
  case accepted =>
    exact ⟨fun r hstatus hcode hinfo => WordReg.read_acceptCommand hstatus hcode hinfo s c,
      s.acceptCommand_status c, s.acceptCommand_errcode c, s.acceptCommand_errinfo c,
      ByteLoc.read_congr rfl rfl rfl⟩

/-! ## Completion -/

/-- R259 (log 6): with BUSY = 0 the engine takes no step. -/
theorem engineStep_of_idle {s : State} (hb : s.busy = false) : engineStep s = .next s := by
  rw [engineStep, hb]
  rfl

theorem exec_goes_on (i : Instr) (s : State) : ∃ t, exec i s = .next t := by
  rw [exec_eq_finish]
  exact finish_goes_on s _

/-- R87: nothing that is pending stops the engine. -/
theorem engineStep_goes_on (s : State) : ∃ t, engineStep s = .next t := by
  cases hb : s.busy with
  | false => exact ⟨s, engineStep_of_idle hb⟩
  | true =>
    by_cases hw : Claims.IllegalWord s.pend
    · exact ⟨_, engineStep_of_illegalWord hb hw⟩
    · obtain ⟨i, hi⟩ := not_illegalWord_iff.mp hw
      rw [engineStep_of_decode hb hi]
      exact exec_goes_on i s

theorem step_goes_on (s : State) : StepGoesOn s := by
  unfold StepGoesOn step
  cases s.nextEvent with
  | engine => exact engineStep_goes_on s.popEvent
  | port op => exact ⟨_, rfl⟩
  | reset fill cells => exact ⟨_, rfl⟩

/-- R87: what the engine's step of a pending word can do. -/
theorem engineStep_cases_of_busy {s t : State} (hb : s.busy = true) (h : engineStep s = .next t) :
    (decode s.pend = .ok .clear ∧ t = s.cleared.completeOk) ∨ Ended s t := by
  rcases engineStep_cases h with ⟨hidle, _⟩ | hrun
  · exact absurd hb (by simp [hidle])
  · exact hrun

theorem Commit.ovr_eq {s u : State} (h : Commit s u) : u.ovr = s.ovr := by
  cases h <;> rfl

theorem Ended.ovr_eq {s t : State} (h : Ended s t) : t.ovr = s.ovr := by
  rcases h with ⟨u, hu, rfl⟩ | ⟨e, rfl⟩
  · exact u.completeOk_ovr.trans hu.ovr_eq
  · exact s.completeErr_ovr e

theorem Ended.busy_eq {s t : State} (h : Ended s t) : t.busy = false := by
  rcases h with ⟨u, _, rfl⟩ | ⟨e, rfl⟩
  · exact u.completeOk_busy
  · exact s.completeErr_busy e

/-- R88: a command that left ERR = 0 completed OK. -/
theorem Ended.codes_of_err_false {s t : State} (h : Ended s t) (herr : t.err = false) :
    t.errcode = 0 ∧ t.errinfo = 0 := by
  rcases h with ⟨u, _, rfl⟩ | ⟨e, rfl⟩
  · exact ⟨u.completeOk_errcode, u.completeOk_errinfo⟩
  · exact absurd herr (by simp)

/-- R89: a command that left ERR = 1 completed with an error. -/
theorem Ended.eq_completeErr {s t : State} (h : Ended s t) (herr : t.err = true) : ∃ e, t = s.completeErr e := by
  rcases h with ⟨u, _, rfl⟩ | herror
  · exact absurd herr (by simp)
  · exact herror

/-- Settles O8: the engine's step goes on, and CLEAR and every other end of a command set the flags of a completion. -/
theorem engineStepAlwaysCompletes : Obligations.EngineStepAlwaysCompletes := by
  refine fun s => ⟨fun hb => ?_, engineStep_of_idle, step_goes_on s⟩
  obtain ⟨t, ht⟩ := engineStep_goes_on s
  refine ⟨t, ht, ?_⟩
  rcases engineStep_cases_of_busy hb ht with ⟨hclear, rfl⟩ | hend
  · exact ⟨State.completeOk_busy _, State.completeOk_done _, fun _ => ⟨rfl, rfl, absurd hclear⟩⟩
  · refine ⟨hend.busy_eq, hend.done_eq, fun herr => ?_⟩
    obtain ⟨hcode, hinfo⟩ := hend.codes_of_err_false herr
    exact ⟨hcode, hinfo, fun _ => hend.ovr_eq⟩

/-- Settles O9: CLEAR completes OK, so that the error is an end of another command, which is an error completion. -/
theorem errorCompletionChangesNothingElse : Obligations.ErrorCompletionChangesNothingElse := by
  intro s t hb h herr
  rcases engineStep_cases_of_busy hb h with ⟨_, rfl⟩ | hend
  · exact absurd herr (by simp)
  · obtain ⟨e, rfl⟩ := hend.eq_completeErr herr
    obtain ⟨hne, hle⟩ := e.code.toWord_range
    have hpos : 1 ≤ e.code.toWord.toNat := Nat.one_le_iff_ne_zero.mpr (BitVec.toNat_ne.mp hne)
    exact ⟨hend.busy_eq, hend.done_eq, hend.ovr_eq, hpos, hle, rfl⟩

end Sys2Proof.Machine
end

section
/-! PROOFS. The frames of the commands (R95): what a commit leaves unchanged, in the registers and in the windows of
the buffers, and how the commands of each unit end. -/

namespace Sys2Proof.Machine

open Sys2Proof.Claims

/-! ## The operands -/

/-- R95: the registers and regions that a commit can write. -/
theorem Commit.frame {s u : State} (h : Commit s u) :
    u = { s with
      desOut := u.desOut, srcX := u.srcX, srcY := u.srcY, outLen := u.outLen, mxRlen := u.mxRlen, mem := u.mem } := by
  cases h <;> rfl

/-- R88, R89, R95: with the completion the lifecycle registers join them. -/
theorem Ended.frame {s t : State} (h : Ended s t) :
    t = { s with
      desOut := t.desOut, srcX := t.srcX, srcY := t.srcY, outLen := t.outLen, mxRlen := t.mxRlen, mem := t.mem,
      status := t.status, errcode := t.errcode, errinfo := t.errinfo } := by
  rcases h with ⟨u, hu, rfl⟩ | ⟨e, rfl⟩
  · rw [hu.frame]
    rfl
  · rfl

/-- R61: under legal parameters a write from the start of one window, within its capacity, reaches no other. -/
theorem Memory.read_writeBytes_of_ne_window {p : Params} (hp : p.wf = true) {b c : Buf} (hbc : b ≠ c) {i : Nat}
    (hi : i < b.capacity p) {bs : List Byte} (hfit : bs.length ≤ c.capacity p) (m : Memory) :
    (m.writeBytes c.base bs).read (b.base + i) = m.read (b.base + i) := by
  refine Memory.read_writeBytes_of_not_mem ?_
  by_contra hin
  have hoff : b.base + i - c.base < c.capacity p := by omega
  exact Buf.windows_disjoint hp hbc hi hoff (by omega)

/-- R95: a commit writes bytes of OUT or of MX_R only. -/
theorem Commit.bufByte_eq {s u : State} (h : Commit s u) (hp : s.params.wf = true) {b : Buf} (hb : b.readOnly = false)
    {i : Nat} (hi : i < b.capacity s.params) : u.bufByte b i = s.bufByte b i := by
  cases h with
  | unchanged | desOut d | source x y => rfl
  | pixels px hfit =>
    have hne : b ≠ .out := by rintro rfl; contradiction
    exact Memory.read_writeBytes_of_ne_window hp hne hi (by rwa [rgbaBytes_length]) s.mem
  | mxResult bs hfit =>
    have hne : b ≠ .mxR := by rintro rfl; contradiction
    exact Memory.read_writeBytes_of_ne_window hp hne hi hfit s.mem

theorem Ended.bufByte_eq {s t : State} (h : Ended s t) (hp : s.params.wf = true) {b : Buf} (hb : b.readOnly = false)
    {i : Nat} (hi : i < b.capacity s.params) : t.bufByte b i = s.bufByte b i := by
  rcases h with ⟨u, hu, rfl⟩ | ⟨e, rfl⟩
  · exact hu.bufByte_eq hp hb hi
  · rfl

/-- Settles O24: the operand registers are outside the frame, and the operand buffers are those that the host may
write. -/
theorem operandsSurviveEveryCommandButClear : Obligations.OperandsSurviveEveryCommandButClear := by
  intro s t hp hb h hne
  have hend : Ended s t := (engineStep_cases_of_busy hb h).resolve_left fun hclear => hne hclear.1
  have hbytes : ∀ b ∈ [Buf.inp, .mxA, .mxB, .mxM], ∀ i < b.capacity s.params, t.bufByte b i = s.bufByte b i := by
    intro b hmem i hi
    have hrw : b.readOnly = false := by fin_cases hmem <;> rfl
    exact hend.bufByte_eq hp hrw hi
  rw [hend.frame]
  exact ⟨rfl, rfl, rfl, rfl, rfl, rfl, rfl, rfl, rfl, rfl, rfl, rfl, rfl, rfl, rfl, rfl, rfl, rfl, hbytes⟩

/-! ## How the commands of a unit end -/

/-- A command whose updates meet `P` completes OK with such updates, or with an error. -/
theorem finish_eq_next_of_forall {P : State → Prop} {s t : State} {r : Except CmdError State}
    (hr : ∀ {u}, r = .ok u → P u) (h : finish s r = .next t) :
    (∃ u, P u ∧ t = u.completeOk) ∨ ∃ e, t = s.completeErr e := by
  rcases finish_eq_next h with ⟨u, hu, ht⟩ | ⟨e, _, ht⟩
  · exact .inl ⟨u, hr hu, ht⟩
  · exact .inr ⟨e, ht⟩

/-- The update is a pixel sequence that fits OUT (R171, R180). -/
def CommitsPixels (s u : State) : Prop := ∃ px, 4 * px.length ≤ s.params.outSize ∧ u = s.withPixels px

/-- R182: the pre-checks leave room for the rectangle that a decoder commits. -/
theorem commitsPixels_of_decPreCheck {s : State} {f : PixelFormat} (h : decPreCheck s = .ok f) (px : Canvas) :
    CommitsPixels s (s.withPixels (px.pixels s.rectWidth s.rectHeight)) := by
  obtain ⟨_, _, hfit⟩ := decPreCheck_eq_ok.mp h
  exact ⟨_, by rw [Canvas.pixels_length]; omega, rfl⟩

theorem pxConv_commitsPixels {s u : State} (h : pxConv s = .ok u) : CommitsPixels s u := by
  obtain ⟨f, _, _, hfit, _, rfl⟩ := pxConv_eq_ok h
  exact ⟨_, by simpa using hfit, rfl⟩

theorem decRaw_commitsPixels {s u : State} (h : decRaw s = .ok u) : CommitsPixels s u := by
  obtain ⟨f, px, hpre, _, rfl⟩ := decRaw_eq_ok h
  exact commitsPixels_of_decPreCheck hpre px

theorem decRre_commitsPixels {s u : State} (h : decRre s = .ok u) : CommitsPixels s u := by
  obtain ⟨f, px, hpre, _, rfl⟩ := decRre_eq_ok h
  exact commitsPixels_of_decPreCheck hpre px

theorem decHextile_commitsPixels {s u : State} (h : decHextile s = .ok u) : CommitsPixels s u := by
  obtain ⟨f, px, hpre, _, rfl⟩ := decHextile_eq_ok h
  exact commitsPixels_of_decPreCheck hpre px

theorem exec_of_convertsPixels {i : Instr} {s t : State} (hi : ConvertsPixels i) (h : exec i s = .next t) :
    (∃ u, CommitsPixels s u ∧ t = u.completeOk) ∨ ∃ e, t = s.completeErr e := by
  rcases hi with rfl | rfl | rfl | rfl
  · exact finish_eq_next_of_forall pxConv_commitsPixels h
  · exact finish_eq_next_of_forall decRaw_commitsPixels h
  · exact finish_eq_next_of_forall decRre_commitsPixels h
  · exact finish_eq_next_of_forall decHextile_commitsPixels h

/-- The update is an MX result that fits MX_R (R142). -/
def CommitsNumber (s u : State) : Prop := ∃ bs, bs.length ≤ 2 * s.params.mxSize ∧ u = s.withMxResult bs

theorem mxWriteBack_commitsNumber {s u : State} {v : Nat} (h : mxWriteBack s v = .ok u) : CommitsNumber s u := by
  obtain ⟨hfit, rfl⟩ := mxWriteBack_eq_ok.mp h
  exact ⟨_, by rwa [toBytesBe_length], rfl⟩

theorem mxModpow_commitsNumber {s u : State} (h : mxModpow s = .ok u) : CommitsNumber s u := by
  obtain ⟨_, _, _, _, _, _, hw⟩ := mxModpow_eq_ok h
  exact mxWriteBack_commitsNumber hw

theorem mxMod_commitsNumber {s u : State} (h : mxMod s = .ok u) : CommitsNumber s u := by
  obtain ⟨_, _, _, _, _, hw⟩ := mxMod_eq_ok h
  exact mxWriteBack_commitsNumber hw

theorem mxMul_commitsNumber {s u : State} (h : mxMul s = .ok u) : CommitsNumber s u := by
  obtain ⟨_, _, _, _, hw⟩ := mxMul_eq_ok h
  exact mxWriteBack_commitsNumber hw

theorem exec_of_mx {i : Instr} {s t : State} (hi : i = .mxModpow ∨ i = .mxMod ∨ i = .mxMul)
    (h : exec i s = .next t) : (∃ u, CommitsNumber s u ∧ t = u.completeOk) ∨ ∃ e, t = s.completeErr e := by
  rcases hi with rfl | rfl | rfl
  · exact finish_eq_next_of_forall mxModpow_commitsNumber h
  · exact finish_eq_next_of_forall mxMod_commitsNumber h
  · exact finish_eq_next_of_forall mxMul_commitsNumber h

/-! ## The frames -/

/-- R5, R30: a legal OUT_SIZE keeps OUT_LEN from wrapping. -/
theorem State.withPixels_outLen_toNat {s : State} (hp : s.params.wf = true) {px : List Rgba}
    (hfit : 4 * px.length ≤ s.params.outSize) : (s.withPixels px).outLen.toNat = (rgbaBytes px).length := by
  obtain ⟨_, ⟨_, hmax, _⟩, _⟩ := Params.wf_bounds hp
  rw [State.withPixels_outLen, BitVec.toNat_ofNat, Nat.mod_eq_of_lt (by omega), rgbaBytes_length]

/-- R5, R43: a legal MX_SIZE keeps MX_RLEN from wrapping. -/
theorem State.withMxResult_mxRlen_toNat {s : State} (hp : s.params.wf = true) {bs : List Byte}
    (hfit : bs.length ≤ 2 * s.params.mxSize) : (s.withMxResult bs).mxRlen.toNat = bs.length := by
  obtain ⟨_, _, _, hmax⟩ := Params.wf_bounds hp
  rw [State.withMxResult_mxRlen, BitVec.toNat_ofNat, Nat.mod_eq_of_lt (by omega)]

/-- Settles O25: an OK completion stores OUT_LEN bytes from the start of OUT on, an error completion none. -/
theorem pixelCommandFrame : Obligations.PixelCommandFrame := by
  intro i s t hi hp h
  rcases exec_of_convertsPixels hi h with ⟨_, ⟨px, hfit, rfl⟩, rfl⟩ | ⟨e, rfl⟩
  · refine ⟨State.completeOk_ovr _, rfl, fun herr => absurd herr (by simp), fun _ a ha => ?_⟩
    rw [State.completeOk_outLen, State.withPixels_outLen_toNat hp hfit] at ha
    exact Memory.read_writeBytes_of_not_mem ha
  · exact ⟨s.completeErr_ovr e, rfl, fun _ => ⟨rfl, fun _ => rfl⟩, fun _ _ _ => rfl⟩

/-- Settles O26: likewise with MX_RLEN and MX_R. -/
theorem mxCommandFrame : Obligations.MxCommandFrame := by
  intro i s t hi hp h
  rcases exec_of_mx hi h with ⟨_, ⟨bs, hfit, rfl⟩, rfl⟩ | ⟨e, rfl⟩
  · refine ⟨State.completeOk_ovr _, rfl, fun herr => absurd herr (by simp), fun _ a ha => ?_⟩
    rw [State.completeOk_mxRlen, State.withMxResult_mxRlen_toNat hp hfit] at ha
    exact Memory.read_writeBytes_of_not_mem ha
  · exact ⟨s.completeErr_ovr e, rfl, fun _ => ⟨rfl, fun _ => rfl⟩, fun _ _ _ => rfl⟩

/-- Settles O27: NOP and DES.ENC always complete OK, DEC.COPYRECT with an update of SRC_X and SRC_Y or with an error. -/
theorem registerCommandFrame : Obligations.RegisterCommandFrame := by
  refine fun s t => ⟨fun h => ?nop, fun kr h => ?desEnc, fun h => ?copyrect⟩
  case nop =>
    obtain rfl := Host.Outcome.next.inj h
    exact ⟨s.completeOk_ovr, fun _ => rfl, rfl⟩
  case desEnc =>
    obtain rfl := Host.Outcome.next.inj h
    exact ⟨State.completeOk_ovr _, fun _ => rfl, rfl⟩
  case copyrect =>
    rcases finish_eq_next h with ⟨u, hu, rfl⟩ | ⟨e, _, rfl⟩
    · obtain ⟨_, _, rfl⟩ := decCopyrect_eq_ok hu
      exact ⟨State.completeOk_ovr _, fun _ => rfl, rfl⟩
    · exact ⟨s.completeErr_ovr e, fun _ => rfl, rfl⟩

end Sys2Proof.Machine
end

section
/-! PROOFS. The strings of the DES unit bit by bit (R9): the bits of a cut, a concatenation and a permuted string, of a
byte array as a string and of a string as a byte array, and the key after its preparation (R101). -/

namespace Sys2Proof.Machine

open Sys2Proof.Claims

/-! ## Cuts, concatenations and permuted strings -/

/-- A cut of `m` bits that leaves out the last `a` ones begins behind the bits to its left. -/
theorem getMsbD_cut {n a m i : Nat} (x : BitVec n) (hfit : a + m ≤ n) (hi : i < m) :
    (x.extractLsb' a m).getMsbD i = x.getMsbD (n - a - m + i) := by
  have hpos : n - (a + m - i) = n - a - m + i := by omega
  have hin : a + m - i ≤ n := by omega
  simp [BitVec.getMsbD_extractLsb', hi, hin, hpos]

/-- Bit `p` of `x ‖ y`, counted from 1. -/
theorem getMsbD_append_pred {n : Nat} (hn : 0 < n) (x y : BitVec n) (p : Nat) :
    (x ++ y).getMsbD (p - 1) = pairBit x y p := by
  have hside : n ≤ p - 1 ↔ ¬ p ≤ n := by omega
  have hpos : p - 1 - n = p - n - 1 := by omega
  simp only [BitVec.getMsbD_append, pairBit, hside, hpos, ite_not]

theorem permute_getMsbD_getD {n m i : Nat} {table : List Nat} (x : BitVec n) (hm : table.length = m) (hi : i < m) :
    (permute m table x).getMsbD i = x.getMsbD (table.getD i 0 - 1) := by
  rw [permute_getMsbD table x hm i hi, List.getD_eq_getElem]

/-- A cut of a number's binary digits that lies within the word. -/
theorem toNat_cut_ofNat {w a m : Nat} (v : Nat) (hfit : a + m ≤ w) :
    ((BitVec.ofNat w v).extractLsb' a m).toNat = v / 2 ^ a % 2 ^ m := by
  refine Nat.eq_of_testBit_eq fun i => ?_
  rw [BitVec.extractLsb'_toNat, BitVec.toNat_ofNat, Nat.testBit_mod_two_pow, Nat.testBit_mod_two_pow,
    Nat.testBit_shiftRight, Nat.testBit_mod_two_pow, Nat.testBit_div_two_pow]
  by_cases hi : i < m
  · have hin : a + i < w := by omega
    simp [hi, hin, Nat.add_comm]
  · simp [hi]

/-- A permuted string depends on the bits that its table names, and on no others. -/
theorem permute_congr {n m : Nat} {table : List Nat} {x y : BitVec n}
    (h : ∀ p ∈ table, x.getMsbD (p - 1) = y.getMsbD (p - 1)) : permute m table x = permute m table y := by
  unfold permute
  rw [List.foldl_ext _ _ 0 fun acc p hp => by rw [h p hp]]

/-! ## Byte arrays -/

/-- R9, R10: bit `q` from the left of a byte sequence, read as a number. -/
theorem natOf_testBit {bs : List Byte} {q : Nat} (hq : q < 8 * bs.length) :
    (natOf bs).testBit (8 * bs.length - 1 - q) = (bs.getD (q / 8) 0).getMsbD (q % 8) := by
  induction bs using List.reverseRecOn with
  | nil => simp at hq
  | append_singleton bs b ih =>
    have hlast : natOf (bs ++ [b]) = 2 ^ 8 * natOf bs + b.toNat := by rw [natOf_append, natOf_singleton]; rfl
    rw [List.length_append, List.length_singleton] at hq ⊢
    rw [hlast, Nat.testBit_two_pow_mul_add _ b.isLt]
    by_cases hin : q < 8 * bs.length
    · have hpos : 8 * (bs.length + 1) - 1 - q - 8 = 8 * bs.length - 1 - q := by omega
      rw [if_neg (by omega), hpos, ih hin, List.getD_append _ _ _ _ (by omega)]
    · have hbyte : q / 8 = bs.length := by omega
      have hpos : 8 * (bs.length + 1) - 1 - q = 8 - 1 - q % 8 := by omega
      have hbit : q % 8 < 8 := by omega
      rw [if_pos (by omega), hbyte, hpos, BitVec.getMsbD_eq_getLsbD, BitVec.testBit_toNat]
      simp [hbit]

theorem byteBit_eq_getMsbD (r : Bytes8) (p : Nat) :
    byteBit r p = (r.toList.getD ((p - 1) / 8) 0).getMsbD ((p - 1) % 8) := by
  have hbit : (p - 1) % 8 < 8 := by omega
  simp [byteBit, BitVec.getMsbD_eq_getLsbD, hbit]

theorem bitsOf_getMsbD_pred (r : Bytes8) (p : Nat) : (bitsOf r).getMsbD (p - 1) = byteBit r p := by
  rw [byteBit_eq_getMsbD]
  by_cases hp : p - 1 < 64
  · have hlt : 64 - 1 - (p - 1) < 64 := by omega
    have hbit := natOf_testBit (bs := r.toList) (q := p - 1) (by simpa using hp)
    rw [Vector.length_toList, show 8 * 8 = 64 from rfl] at hbit
    rw [bitsOf, BitVec.getMsbD_eq_getLsbD, BitVec.getLsbD_ofNat, hbit, decide_eq_true hp, decide_eq_true hlt,
      Bool.true_and, Bool.true_and]
  · have hend : r.toList.length ≤ (p - 1) / 8 := by rw [Vector.length_toList]; omega
    rw [BitVec.getMsbD_of_ge _ _ (by omega), List.getD_eq_default _ _ hend]
    simp

/-- R117: `bytesOf` inverts `bitsOf`. -/
theorem byteBit_bytesOf (y : BitVec 64) {i : Nat} (hi : i < 64) : byteBit (bytesOf y) (i + 1) = y.getMsbD i := by
  have hbyte : ∀ j < 8, (bytesOf y).toList.getD j 0 = y.extractLsb' (56 - 8 * j) 8 := by
    intro j hj
    interval_cases j <;> rfl
  have hpos : 64 - (56 - 8 * (i / 8)) - 8 + i % 8 = i := by omega
  rw [byteBit_eq_getMsbD, Nat.add_sub_cancel, hbyte _ (by omega), getMsbD_cut _ (by omega) (by omega), hpos]

/-! ## Key preparation -/

theorem rev8_getLsbD (b : Byte) (i : Nat) : (rev8 b).getLsbD i = b.getMsbD i := BitVec.getLsbD_reverse

theorem rev8_getMsbD (b : Byte) (i : Nat) : (rev8 b).getMsbD i = b.getLsbD i := BitVec.getMsbD_reverse

/-- R101: the bits of the prepared key. -/
theorem byteBit_prepareKey (kr : Bool) (key : Bytes8) (p : Nat) : byteBit (prepareKey kr key) p = keyBit kr key p := by
  cases kr with
  | false => rfl
  | true =>
    have hbyte (j : Nat) : (prepareKey true key).toList.getD j 0 = rev8 (key.toList.getD j 0) :=
      (congrArg (·.getD j (rev8 0)) Vector.toList_map).trans (List.getD_map _ _ _)
    rw [byteBit_eq_getMsbD, hbyte, rev8_getMsbD]
    rfl

end Sys2Proof.Machine
end

section
/-! PROOFS. What the DES unit computes (40_des.md): the round function (R110 to R115), the key schedule (R102 to R105)
and the rounds (R107 to R116) one step after another, and the statements about DES.ENC. -/

namespace Sys2Proof.Machine

open Sys2Proof.Claims

/-! ## The tables -/

theorem pc1_length : pc1.length = 56 := rfl
theorem pc2_length : pc2.length = 48 := rfl
theorem ipTable_length : ipTable.length = 64 := rfl
theorem fpTable_length : fpTable.length = 64 := rfl
theorem eTable_length : eTable.length = 48 := rfl
theorem pTable_length : pTable.length = 32 := rfl

/-- R121: PC-1 leaves the parity positions out. -/
theorem pc1_not_parity : ∀ p ∈ pc1, p % 8 ≠ 0 := by decide

/-- R105: the positions that PC-2 leaves out. -/
theorem not_mem_pc2_iff : ∀ x, 1 ≤ x → x ≤ 56 → (x ∉ pc2 ↔ x ∈ [9, 18, 22, 25, 35, 38, 43, 54]) := by decide

/-- R116: FP and IP invert each other. -/
theorem fpTable_ipTable_inverse : ∀ i, 1 ≤ i → i ≤ 64 →
    fpTable.getD (ipTable.getD (i - 1) 0 - 1) 0 = i ∧ ipTable.getD (fpTable.getD (i - 1) 0 - 1) 0 = i := by decide

/-- R111: a row of E is a window of six bits, sliding by four. -/
theorem eTable_row : ∀ r < 8, ∀ j < 6, eTable.getD (6 * r + j) 0 = (4 * r + j + 31) % 32 + 1 := by decide

/-- R114: the rows of the S-boxes. -/
theorem sbox_row_perm : ∀ b ∈ sboxes, b.length = 64 ∧ ∀ r < 4, ((b.drop (16 * r)).take 16).Perm (List.range 16) := by
  decide

/-- Settles O35, table by table. -/
theorem tableIntegrity : Obligations.TableIntegrity :=
  ⟨⟨pc1_length, by decide, pc1_not_parity⟩, ⟨pc2_length, by decide, by decide, not_mem_pc2_iff⟩, by decide, by decide,
    fpTable_ipTable_inverse, ⟨eTable_length, by decide, eTable_row⟩, by decide, rfl, sbox_row_perm⟩

/-! ## The round function -/

/-- The digits of a base-16 number that a left fold builds. -/
theorem foldHex_digit {α : Type} {f : α → Nat} {xs : List α} (hf : ∀ x ∈ xs, f x < 16) (acc : Nat) {j : Nat}
    (hj : j < xs.length) :
    xs.foldl (fun acc x => 16 * acc + f x) acc / 16 ^ (xs.length - 1 - j) % 16 = f xs[j] := by
  induction xs using List.reverseRecOn with
  | nil => simp at hj
  | append_singleton xs x ih =>
    have hx : f x < 16 := hf x (by simp)
    simp only [List.foldl_append, List.foldl_cons, List.foldl_nil, List.length_append, List.length_singleton,
      Nat.add_sub_cancel] at hj ⊢
    by_cases hin : j < xs.length
    · have hexp : xs.length - j = xs.length - 1 - j + 1 := by omega
      rw [hexp, Nat.pow_succ', ← Nat.div_div_eq_div_mul, Nat.mul_add_div (by decide), Nat.div_eq_of_lt hx, Nat.add_zero,
        ih (fun y hy => hf y (List.mem_append_left _ hy)) hin, List.getElem_append_left hin]
    · obtain rfl : j = xs.length := by omega
      simp only [Nat.sub_self, Nat.pow_zero, Nat.div_one, List.getElem_concat_length]
      omega

/-- R113: row and column of a group bit by bit. -/
theorem sboxEntry_eq (box : List Nat) (g : BitVec 6) : sboxEntry box g =
    box.getD (16 * (2 * (g.getMsbD 0).toNat + (g.getMsbD 5).toNat) +
      (8 * (g.getMsbD 1).toNat + 4 * (g.getMsbD 2).toNat + 2 * (g.getMsbD 3).toNat + (g.getMsbD 4).toNat)) 0 := by
  have hcolumn : ∀ g : BitVec 6, (g.extractLsb' 1 4).toNat =
      8 * (g.getMsbD 1).toNat + 4 * (g.getMsbD 2).toNat + 2 * (g.getMsbD 3).toNat + (g.getMsbD 4).toNat := by decide
  rw [sboxEntry, hcolumn]

/-- R113: every S-box answers four bits. -/
theorem sboxEntry_lt {box : List Nat} (hbox : box ∈ sboxes) (g : BitVec 6) : sboxEntry box g < 16 := by
  have hentries : ∀ b ∈ sboxes, ∀ x ∈ b, x < 16 := by decide
  rw [sboxEntry_eq]
  generalize 16 * _ + _ = n
  by_cases hn : n < box.length
  · rw [List.getD_eq_getElem _ _ hn]
    exact hentries box hbox _ (List.getElem_mem hn)
  · rw [List.getD_eq_default _ _ (Nat.le_of_not_lt hn)]
    decide

/-- R112: group `j` of a 48-bit string holds its bits from `6 j` on. -/
theorem group_getMsbD (t : BitVec 48) {j i : Nat} (hj : j < 8) (hi : i < 6) :
    (t.extractLsb' (42 - 6 * j) 6).getMsbD i = t.getMsbD (6 * j + i) := by
  have hpos : 48 - (42 - 6 * j) - 6 + i = 6 * j + i := by omega
  rw [getMsbD_cut t (by omega) hi, hpos]

/-- R110: four bits of the substituted string are the entry of their S-box. -/
theorem substitute_nibble (t : BitVec 48) {j : Nat} (hj : j < 8) :
    ((substitute t).extractLsb' (28 - 4 * j) 4).toNat =
      sboxEntry (sboxes.getD j []) (t.extractLsb' (42 - 6 * j) 6) := by
  have hlen : sboxes.zipIdx.length = 8 := rfl
  have hbase : 2 ^ (28 - 4 * j) = 16 ^ (sboxes.zipIdx.length - 1 - j) := by
    have hpos : 28 - 4 * j = 4 * (sboxes.zipIdx.length - 1 - j) := by omega
    rw [hpos, Nat.pow_mul]
  have hdigit := foldHex_digit (f := fun bj => sboxEntry bj.1 (t.extractLsb' (42 - 6 * bj.2) 6))
    (fun bj hbj => sboxEntry_lt (List.fst_mem_of_mem_zipIdx hbj) _) 0 (hlen ▸ hj)
  rw [List.getElem_zipIdx, Nat.zero_add] at hdigit
  rw [substitute, toNat_cut_ofNat _ (by omega), hbase, List.getD_eq_getElem]
  exact hdigit

/-- Settles O31: `t` is what goes into the S-boxes, `u` what comes out. -/
theorem roundFunctionSubstitutesAndPermutes : Obligations.RoundFunctionSubstitutesAndPermutes := by
  refine fun r k => ⟨permute 48 eTable r ^^^ k, substitute (permute 48 eTable r ^^^ k), ?mix, ?sbox, ?perm⟩
  case mix =>
    intro i hi
    rw [BitVec.getMsbD_xor, permute_getMsbD_getD r eTable_length hi]
  case sbox =>
    intro j hj
    simp only [substitute_nibble _ hj, sboxEntry_eq, group_getMsbD _ hj, Nat.reduceLT, Nat.add_zero]
  case perm =>
    intro i hi
    exact permute_getMsbD_getD _ pTable_length hi

/-! ## The key schedule -/

theorem foldl_take_succ {α β : Type} (f : β → α → β) (b : β) {xs : List α} {n : Nat} (hn : n < xs.length) :
    (xs.take (n + 1)).foldl f b = f ((xs.take n).foldl f b) xs[n] := by
  rw [← List.take_append_getElem hn, List.foldl_append]
  rfl

/-- A half of the key after the first `n` rotations (R104). -/
def rotated (amounts : List Nat) (x : BitVec 28) (n : Nat) : BitVec 28 := (amounts.take n).foldl BitVec.rotateLeft x

theorem rotated_succ {amounts : List Nat} (x : BitVec 28) {n : Nat} (hn : n < amounts.length) :
    rotated amounts x (n + 1) = (rotated amounts x n).rotateLeft (amounts.getD n 0) := by
  rw [List.getD_eq_getElem _ _ hn]
  exact foldl_take_succ _ _ hn

theorem subkeysFrom_length (amounts : List Nat) (c d : BitVec 28) :
    (subkeysFrom amounts c d).length = amounts.length := by
  induction amounts generalizing c d with
  | nil => rfl
  | cons a rest ih => exact congrArg (· + 1) (ih _ _)

/-- R105: subkey `n + 1` comes of the halves after `n + 1` rotations. -/
theorem subkeysFrom_getElem {amounts : List Nat} (c d : BitVec 28) {n : Nat}
    (hn : n < (subkeysFrom amounts c d).length) : (subkeysFrom amounts c d)[n] =
      permute 48 pc2 (rotated amounts c (n + 1) ++ rotated amounts d (n + 1)) := by
  induction amounts generalizing c d n with
  | nil => simp [subkeysFrom] at hn
  | cons a rest ih =>
    cases n with
    | zero => rfl
    | succ n => exact ih _ _ (Nat.lt_of_succ_lt_succ hn)

/-- C[0] of a prepared key (R103). -/
def keyLeft (key : Bytes8) : BitVec 28 := (permute 56 pc1 (bitsOf key)).extractLsb' 28 28

/-- D[0] of a prepared key (R103). -/
def keyRight (key : Bytes8) : BitVec 28 := (permute 56 pc1 (bitsOf key)).extractLsb' 0 28

theorem keySchedule_eq (key : Bytes8) : keySchedule key = subkeysFrom rotations (keyLeft key) (keyRight key) := rfl

theorem keySchedule_length (key : Bytes8) : (keySchedule key).length = 16 := subkeysFrom_length _ _ _

theorem keyLeft_getMsbD (key : Bytes8) {i : Nat} (hi : i < 28) :
    (keyLeft key).getMsbD i = byteBit key (pc1.getD i 0) := by
  have hpos : 56 - 28 - 28 + i = i := by omega
  rw [keyLeft, getMsbD_cut _ (by decide) hi, hpos, permute_getMsbD_getD _ pc1_length (by omega), bitsOf_getMsbD_pred]

theorem keyRight_getMsbD (key : Bytes8) {i : Nat} (hi : i < 28) :
    (keyRight key).getMsbD i = byteBit key (pc1.getD (28 + i) 0) := by
  rw [keyRight, getMsbD_cut _ (by decide) hi, permute_getMsbD_getD _ pc1_length (by omega), bitsOf_getMsbD_pred]

/-- K[n] of a prepared key, for n from 1 on (R105). -/
def subkey (key : Bytes8) (n : Nat) : BitVec 48 := (keySchedule key).getD (n - 1) 0

theorem subkey_getMsbD (key : Bytes8) {n i : Nat} (hn : n < 16) (hi : i < 48) : (subkey key (n + 1)).getMsbD i =
    pairBit (rotated rotations (keyLeft key) (n + 1)) (rotated rotations (keyRight key) (n + 1)) (pc2.getD i 0) := by
  have hlen : n < (subkeysFrom rotations (keyLeft key) (keyRight key)).length := by rwa [subkeysFrom_length]
  rw [subkey, Nat.add_sub_cancel, keySchedule_eq, List.getD_eq_getElem _ _ hlen, subkeysFrom_getElem,
    permute_getMsbD_getD _ pc2_length hi, getMsbD_append_pred (by decide)]

/-! ## The rounds -/

/-- L[0] and R[0] of a block (R107, R108). -/
def blockHalves (block : Bytes8) : BitVec 32 × BitVec 32 :=
  ((permute 64 ipTable (bitsOf block)).extractLsb' 32 32, (permute 64 ipTable (bitsOf block)).extractLsb' 0 32)

theorem blockHalves_getMsbD (block : Bytes8) {i : Nat} (hi : i < 32) :
    (blockHalves block).1.getMsbD i = byteBit block (ipTable.getD i 0) ∧
      (blockHalves block).2.getMsbD i = byteBit block (ipTable.getD (32 + i) 0) := by
  have hpos : 64 - 32 - 32 + i = i := by omega
  constructor
  · rw [blockHalves, getMsbD_cut _ (by decide) hi, hpos, permute_getMsbD_getD _ ipTable_length (by omega),
      bitsOf_getMsbD_pred]
  · rw [blockHalves, getMsbD_cut _ (by decide) hi, permute_getMsbD_getD _ ipTable_length (by omega),
      bitsOf_getMsbD_pred]

/-- L[n] and R[n] of a block under a prepared key, the halves after the first `n` rounds (R109). -/
def roundHalves (key block : Bytes8) (n : Nat) : BitVec 32 × BitVec 32 :=
  ((keySchedule key).take n).foldl desRound (blockHalves block)

theorem roundHalves_succ (key block : Bytes8) {n : Nat} (hn : n < 16) :
    roundHalves key block (n + 1) = desRound (roundHalves key block n) (subkey key (n + 1)) := by
  have hlen : n < (keySchedule key).length := by rwa [keySchedule_length]
  rw [subkey, Nat.add_sub_cancel, List.getD_eq_getElem _ _ hlen]
  exact foldl_take_succ _ _ hlen

/-- R116: behind the last round the halves change places. -/
theorem encryptBlock_keySchedule (key block : Bytes8) : encryptBlock (keySchedule key) block =
    bytesOf (permute 64 fpTable ((roundHalves key block 16).2 ++ (roundHalves key block 16).1)) := by
  rw [roundHalves, ← keySchedule_length key, List.take_length]
  rfl

/-! ## DES.ENC -/

/-- R100: DES.ENC completes OK with the encrypted block. -/
theorem exec_desEnc (kr : Bool) (s : State) :
    exec (.desEnc kr) s = .next { s with desOut := desEncrypt kr s.desKey s.desIn }.completeOk := rfl

/-- R116, R117: DES_OUT bit by bit. -/
theorem byteBit_desEncrypt (kr : Bool) (key block : Bytes8) {i : Nat} (hi : i < 64) :
    byteBit (desEncrypt kr key block) (i + 1) = pairBit (roundHalves (prepareKey kr key) block 16).2
      (roundHalves (prepareKey kr key) block 16).1 (fpTable.getD i 0) := by
  rw [desEncrypt, encryptBlock_keySchedule, byteBit_bytesOf _ hi, permute_getMsbD_getD _ fpTable_length hi,
    getMsbD_append_pred (by decide)]

/-- Settles O30: the strings of the statement are those that the schedule and the rounds of the model go through. -/
theorem desEncFollowsTheRounds : Obligations.DesEncFollowsTheRounds := by
  intro kr s
  refine ⟨rotated rotations (keyLeft (prepareKey kr s.desKey)), rotated rotations (keyRight (prepareKey kr s.desKey)),
    subkey (prepareKey kr s.desKey), fun n => (roundHalves (prepareKey kr s.desKey) s.desIn n).1,
    fun n => (roundHalves (prepareKey kr s.desKey) s.desIn n).2, _, exec_desEnc kr s, ?completed, rfl, ?pc1, ?rotate,
    fun n hn i hi => subkey_getMsbD _ hn hi, fun i hi => blockHalves_getMsbD _ hi, ?round,
    fun i hi => byteBit_desEncrypt kr _ _ hi⟩
  case completed =>
    exact ⟨State.completeOk_busy _, State.completeOk_done _, State.completeOk_err _, State.completeOk_ovr _, rfl, rfl⟩
  case pc1 =>
    intro i hi
    rw [← byteBit_prepareKey, ← byteBit_prepareKey]
    exact ⟨keyLeft_getMsbD _ hi, keyRight_getMsbD _ hi⟩
  case rotate => exact fun n hn => ⟨rotated_succ _ hn, rotated_succ _ hn⟩
  case round =>
    intro n hn
    simp only [roundHalves_succ _ _ hn, desRound, and_self]

/-- R102, R121: the key schedule reads a key at the entries of PC-1 only. -/
theorem keySchedule_congr {key key' : Bytes8} (h : ∀ p ∈ pc1, byteBit key p = byteBit key' p) :
    keySchedule key = keySchedule key' := by
  have hpc1 : permute 56 pc1 (bitsOf key) = permute 56 pc1 (bitsOf key') :=
    permute_congr fun p hp => by rw [bitsOf_getMsbD_pred, bitsOf_getMsbD_pred, h p hp]
  rw [keySchedule, keySchedule, hpc1]

/-- Byte arrays that agree under a mask do so at every index, behind their end too. -/
theorem getD_toList_and_congr {r r' : Bytes8} {m : Byte} (h : ∀ i : Fin 8, r.get i &&& m = r'.get i &&& m) (j : Nat) :
    r.toList.getD j 0 &&& m = r'.toList.getD j 0 &&& m := by
  by_cases hj : j < 8
  · rw [List.getD_eq_getElem _ _ (by simpa using hj), List.getD_eq_getElem _ _ (by simpa using hj)]
    exact h ⟨j, hj⟩
  · rw [List.getD_eq_default _ _ (by simpa using hj), List.getD_eq_default _ _ (by simpa using hj)]

/-- R121: the mask keeps every bit of the key that is not at a parity position. -/
theorem keyBit_eq_of_mask {kr : Bool} {key key' : Bytes8}
    (h : ∀ i : Fin 8, key.get i &&& (if kr then 0x7F#8 else 0xFE#8) = key'.get i &&& (if kr then 0x7F#8 else 0xFE#8))
    {p : Nat} (hp : p % 8 ≠ 0) : keyBit kr key p = keyBit kr key' p := by
  have hbit (i : Nat) := congrArg (·.getLsbD i) (getD_toList_and_congr h ((p - 1) / 8))
  simp only [BitVec.getLsbD_and] at hbit
  cases kr with
  | false =>
    have hmask : ∀ i < 7, (0xFE#8).getLsbD (7 - i) = true := by decide
    simpa [keyBit, byteBit, hmask ((p - 1) % 8) (by omega)] using hbit (7 - (p - 1) % 8)
  | true =>
    have hmask : ∀ i < 7, (0x7F#8).getLsbD i = true := by decide
    simpa [keyBit, hmask ((p - 1) % 8) (by omega)] using hbit ((p - 1) % 8)

/-- Settles O33: no entry of PC-1 is a parity position. -/
theorem parityBitsAreIgnored : Obligations.ParityBitsAreIgnored := by
  intro kr s key h
  have hkeys : keySchedule (prepareKey kr s.desKey) = keySchedule (prepareKey kr key) :=
    keySchedule_congr fun p hp => by
      rw [byteBit_prepareKey, byteBit_prepareKey, keyBit_eq_of_mask h (pc1_not_parity p hp)]
  refine ⟨_, _, exec_desEnc kr s, exec_desEnc kr _, ?_, State.completeOk_err _, State.completeOk_err _⟩
  exact congrArg (encryptBlock · s.desIn) hkeys

/-- Settles O32: key preparation is the one place where KR is read. -/
theorem keyReversalModifier : Obligations.KeyReversalModifier := by
  refine ⟨fun s => ⟨_, _, exec_desEnc true s, exec_desEnc false _, rfl, rfl⟩, fun b i hi => ?_, by decide, by decide⟩
  rw [rev8_getLsbD, BitVec.getMsbD_eq_getLsbD, decide_eq_true hi, Bool.true_and]

/-- R123: the ciphertext of the zero block under the zero key, which KR leaves as it is. -/
theorem desEncrypt_zero (kr : Bool) : desEncrypt kr #v[0, 0, 0, 0, 0, 0, 0, 0] #v[0, 0, 0, 0, 0, 0, 0, 0] =
    #v[0x8C, 0xA6, 0x4D, 0xE9, 0xC1, 0xB1, 0x23, 0xA7] := by
  have hkey : prepareKey kr #v[0, 0, 0, 0, 0, 0, 0, 0] = #v[0, 0, 0, 0, 0, 0, 0, 0] := by
    cases kr <;> simp [prepareKey, rev8]
  rw [desEncrypt, hkey]
  decide +kernel

/-- Settles O34: DES_OUT is `desEncrypt` of the key and the block. -/
theorem desEncIsDeterministic : Obligations.DesEncIsDeterministic := by
  refine ⟨fun kr s s' hkey hin => ⟨_, _, exec_desEnc kr s, exec_desEnc kr s', ?_⟩, fun kr s hkey hin =>
    ⟨_, exec_desEnc kr s, ?_⟩⟩
  · rw [State.completeOk_desOut, State.completeOk_desOut, hkey, hin]
  · rw [State.completeOk_desOut, hkey, hin, desEncrypt_zero]

end Sys2Proof.Machine
end

section
/-! PROOFS. The numbers of the MX unit (41_modexp.md): big-endian bytes as digits (R10, R132), the binary long division
(R139) and the square and multiply (R140), each with what it computes, and the statements about them. -/

namespace Sys2Proof.Machine

open Sys2Proof.Claims

/-! ## Big-endian bytes -/

/-- R10: the last of the bytes is the last digit, the others are those of the quotient. -/
theorem beBytes_succ (v n : Nat) : beBytes v (n + 1) = beBytes (v / 256) n ++ [BitVec.ofNat 8 v] := by
  have hdigit : ∀ i < n, v / 256 ^ (n + 1 - 1 - i) = v / 256 / 256 ^ (n - 1 - i) := by
    intro i hi
    have hpos : n + 1 - 1 - i = n - 1 - i + 1 := by omega
    rw [hpos, Nat.pow_succ', Nat.div_div_eq_div_mul]
  have hlast : v / 256 ^ (n + 1 - 1 - n) = v := by simp
  simp only [beBytes, List.range_succ, List.map_append, List.map_singleton, hlast]
  rw [List.map_congr_left fun i hi => by rw [hdigit i (List.mem_range.mp hi)]]

theorem natOf_concat (bs : List Byte) (b : Byte) : natOf (bs ++ [b]) = 256 * natOf bs + b.toNat := by
  rw [natOf_append, natOf_singleton]
  rfl

theorem natOf_beBytes (v n : Nat) : natOf (beBytes v n) = v % 256 ^ n := by
  induction n generalizing v with
  | zero => rw [Nat.pow_zero, Nat.mod_one]; rfl
  | succ n ih =>
    calc natOf (beBytes v (n + 1)) = 256 * (v / 256 % 256 ^ n) + v % 256 := by
          rw [beBytes_succ, natOf_concat, ih, BitVec.toNat_ofNat]
      _ = v % 256 ^ (n + 1) := by rw [Nat.pow_succ', Nat.mod_mul, Nat.add_comm]

/-- R10: a byte sequence is the representation of its own value at its own length. -/
theorem beBytes_natOf (bs : List Byte) : beBytes (natOf bs) bs.length = bs := by
  induction bs using List.reverseRecOn with
  | nil => rfl
  | append_singleton bs b ih =>
    have hb := b.isLt
    have hquot : (256 * natOf bs + b.toNat) / 256 = natOf bs := by omega
    have hrem : BitVec.ofNat 8 (256 * natOf bs + b.toNat) = b := by
      apply BitVec.eq_of_toNat_eq
      rw [BitVec.toNat_ofNat]
      omega
    rw [List.length_append, List.length_singleton, natOf_concat, beBytes_succ, hquot, hrem, ih]

theorem natlen_natOf_le (bs : List Byte) : natlen (natOf bs) ≤ bs.length := natlen_le_iff.mpr (natOf_lt bs)

@[simp] theorem natOf_toBytesBe (v n : Nat) : natOf (toBytesBe v n) = v := by
  have hroom : v < 256 ^ max n (natlen v) := natlen_le_iff.mp (le_max_right n (natlen v))
  rw [toBytesBe, natOf_beBytes, Nat.mod_eq_of_lt hroom]

/-- R132: a leading zero byte would leave the value fewer digits than it has. -/
theorem head?_toBytesBe_ne_zero (v : Nat) : (toBytesBe v 0).head? ≠ some 0 := by
  intro hhead
  obtain ⟨ds, hds⟩ := List.head?_eq_some_iff.mp hhead
  have hvalue : v = natOf ds := by
    rw [← natOf_toBytesBe v 0, hds]
    rfl
  have hlen : natlen v = ds.length + 1 := by
    rw [← Nat.zero_max (natlen v), ← toBytesBe_length, hds, List.length_cons]
  have hfew : natlen v ≤ ds.length := hvalue ▸ natlen_natOf_le ds
  omega

/-- Settles O37: the digits that `natlen` counts hold the whole value, and no fewer do. -/
theorem toBytesBeRoundTrip : Obligations.ToBytesBeRoundTrip := by
  refine ⟨fun v n => ⟨toBytesBe_length v n, natOf_toBytesBe v n⟩, fun v _ => head?_toBytesBe_ne_zero v, fun bs => ?_⟩
  rw [toBytesBe, max_eq_left (natlen_natOf_le bs), beBytes_natOf]

/-! ## The long division -/

theorem bigCmp_eq_lt {a b : Nat} : bigCmp a b = .lt ↔ a < b := by
  unfold bigCmp
  split_ifs with hlt heq <;> simp [hlt]

/-- R139: the shift and the OR append the bit of the dividend to the remainder, and one subtraction reduces the sum,
since it is below twice the modulus. -/
theorem moduloStep_eq_mod {a m i r : Nat} (hr : r < m) :
    moduloStep a m i r = (2 * r + a / 2 ^ i % 2) % m := by
  have hbit : a / 2 ^ i % 2 < 2 := Nat.mod_lt _ two_pos
  have happend : shl1 r ||| (a.testBit i).toNat = 2 * r + a / 2 ^ i % 2 := by
    rw [Nat.toNat_testBit]
    exact (Nat.two_pow_add_eq_or_of_lt (i := 1) hbit r).symm
  rw [moduloStep, happend]
  generalize a / 2 ^ i % 2 = bit at hbit ⊢
  split
  · next h => rw [Nat.mod_eq_of_lt (bigCmp_eq_lt.mp h)]
  · next h =>
    have hge : m ≤ 2 * r + bit := le_of_bigCmp_ne_lt h
    rw [bigSub, Nat.mod_eq_sub_mod hge, Nat.mod_eq_of_lt (by omega)]

/-- The invariant of R139: before bit `i - 1` the remainder is that of the bits from `i` on. -/
theorem moduloLoop_eq_mod {m : Nat} (hm : 0 < m) (a i : Nat) : moduloLoop a m i (a / 2 ^ i % m) = a % m := by
  induction i with
  | zero => rw [Nat.pow_zero, Nat.div_one]; rfl
  | succ i ih =>
    have hbits : a / 2 ^ i = 2 * (a / 2 ^ (i + 1)) + a / 2 ^ i % 2 := by
      rw [Nat.pow_succ, ← Nat.div_div_eq_div_mul]
      omega
    have hstep : moduloStep a m i (a / 2 ^ (i + 1) % m) = a / 2 ^ i % m := by
      rw [moduloStep_eq_mod (Nat.mod_lt _ hm)]
      conv_rhs => rw [hbits]
      exact ((Nat.mod_modEq _ m).mul_left 2).add_right _
    rw [moduloLoop, hstep, ih]

/-- R139, R144: the long division computes the remainder. -/
theorem modulo_eq_mod {m : Nat} (hm : 0 < m) (a : Nat) : modulo a m = a % m := by
  have hstart : a / 2 ^ bitlen a % m = 0 := by
    rw [Nat.div_eq_of_lt (bitlen_le_iff.mp le_rfl), Nat.zero_mod]
  rw [modulo, ← hstart, moduloLoop_eq_mod hm]

/-! ## Square and multiply -/

@[simp] theorem modPowLoop_zero (fuel m r b : Nat) : modPowLoop fuel m r b 0 = r := by
  cases fuel <;> rfl

/-- One iteration of R140, for a modulus that is not 0. -/
theorem modPowLoop_succ {m e : Nat} (hm : 0 < m) (he : 0 < e) (fuel r b : Nat) :
    modPowLoop (fuel + 1) m r b e =
      modPowLoop fuel m (if e % 2 = 1 then r * b % m else r) (b * b % m) (e / 2) := by
  rw [modPowLoop, if_neg he.ne', modulo_eq_mod hm, modulo_eq_mod hm]
  rfl

/-- The invariant of R140: an iteration keeps `r * b ^ e` modulo `m`. -/
theorem squareMultiply_modEq (m r b e : Nat) :
    (if e % 2 = 1 then r * b % m else r) * (b * b % m) ^ (e / 2) ≡ r * b ^ e [MOD m] := by
  have hsquare : (b * b % m) ^ (e / 2) ≡ b ^ (2 * (e / 2)) [MOD m] := by
    rw [pow_mul, sq]
    exact (Nat.mod_modEq _ m).pow _
  rcases Nat.mod_two_eq_zero_or_one e with heven | hodd
  · have hexp : 2 * (e / 2) = e := by omega
    rw [hexp] at hsquare
    rw [if_neg (by omega)]
    exact hsquare.mul_left r
  · have hexp : e = 2 * (e / 2) + 1 := by omega
    have hsplit : r * b ^ e = r * b * b ^ (2 * (e / 2)) := by
      conv_lhs => rw [hexp, pow_succ']
      rw [mul_assoc]
    rw [if_pos hodd, hsplit]
    exact (Nat.mod_modEq _ m).mul hsquare

/-- R140: the loop computes the power, reduced since the last of its iterations multiplies: it meets the exponent 1. -/
theorem modPowLoop_eq_mod {fuel m e : Nat} (hm : 0 < m) (he : 0 < e) (hfuel : e < 2 ^ fuel) (r b : Nat) :
    modPowLoop fuel m r b e = r * b ^ e % m := by
  induction fuel generalizing r b e with
  | zero => omega
  | succ fuel ih =>
    rw [modPowLoop_succ hm he]
    rcases Nat.eq_zero_or_pos (e / 2) with hlast | hmore
    · obtain rfl : e = 1 := by omega
      rw [hlast, modPowLoop_zero, if_pos rfl, pow_one]
    · rw [ih hmore (by omega)]
      exact squareMultiply_modEq m r b e

/-- R141: `mod_pow` by its table. -/
theorem modPow_eq_powerTable (base exp m : Nat) : modPow base exp m = powerTable base exp m := by
  unfold modPow powerTable
  split
  · rfl
  · next hm =>
    split
    · next he => rw [he, modPowLoop_zero]
    · next he =>
      have hfuel : exp < 2 ^ bitlen exp := bitlen_le_iff.mp le_rfl
      rw [modPowLoop_eq_mod (Nat.pos_of_ne_zero hm) (Nat.pos_of_ne_zero he) hfuel, one_mul]

/-- R141, the last row of the table. -/
theorem modPow_of_pos {m exp : Nat} (hm : 0 < m) (he : 0 < exp) (base : Nat) :
    modPow base exp m = base ^ exp % m := by
  rw [modPow_eq_powerTable, powerTable, if_neg hm.ne', if_neg he.ne']

/-- R141: the exponent 0, for any modulus. -/
theorem modPow_exp_zero (base m : Nat) : modPow base 0 m = 1 := by
  rw [modPow_eq_powerTable, powerTable, if_pos rfl, ite_self]

/-- Settles O38: the rows of the table; with the modulus 1 the remainder is 0. -/
theorem modPowByCases : Obligations.ModPowByCases := by
  intro base exp
  refine ⟨rfl, modPow_exp_zero base 1, fun he => ?_, fun m hm => ⟨modPow_exp_zero base m, fun he => ?_⟩⟩
  · rw [modPow_of_pos one_pos he, Nat.mod_one]
  · exact modPow_of_pos (by omega) he base

end Sys2Proof.Machine
end

section
/-! PROOFS. What the MX commands leave (R131, R142 to R145): the write-back of a result that fits, and the number each
command writes back when its operands have legal lengths. -/

namespace Sys2Proof.Machine

open Sys2Proof.Claims

/-! ## The write-back -/

theorem State.completeOk_completedOk (s : State) : CompletedOk s s.completeOk :=
  ⟨s.completeOk_busy, s.completeOk_done, s.completeOk_err, s.completeOk_ovr, rfl, rfl⟩

/-- R142: a result that fits MX_R is committed there, with `complete OK`. -/
theorem finish_mxWriteBack {s : State} {v : Nat} (hp : s.params.wf = true) (hfit : ResultFits s v) :
    ∃ t, finish s (mxWriteBack s v) = .next t ∧ WroteNumber s t v := by
  have hbytes : (toBytesBe v s.mxMinlen.toNat).length ≤ 2 * s.params.mxSize := by rwa [toBytesBe_length]
  have hrlen := State.withMxResult_mxRlen_toNat hp hbytes
  refine ⟨_, by rw [mxWriteBack_eq_ok.mpr ⟨hfit, rfl⟩, finish_ok], ?_⟩
  exact
    { completed := State.completeOk_completedOk _
      rlen := hrlen.trans (toBytesBe_length _ _)
      value := by
        rw [State.completeOk_mxRlen, hrlen, State.bufBytes, State.completeOk_mem, State.withMxResult_mem,
          Memory.readBytes_writeBytes, natOf_toBytesBe]
      bytes := fun a ha => by
        rw [State.completeOk_mxRlen, hrlen] at ha
        exact Memory.read_writeBytes_of_not_mem ha
      others := rfl }

/-! ## The operands -/

theorem mxOperand_of_le {s : State} {b : Buf} {len : Word} (h : len.toNat ≤ s.params.mxSize) :
    mxOperand s b len = .ok (natOf (s.bufBytes b len.toNat)) := mxOperand_eq_ok.mpr ⟨h, rfl⟩

/-- R131: an operand has no more digits than its length says. -/
theorem natOf_bufBytes_lt (s : State) (b : Buf) (n : Nat) : natOf (s.bufBytes b n) < 256 ^ n := by
  simpa using natOf_lt (s.bufBytes b n)

/-! ## The commands -/

/-- R143, R141. -/
theorem mxModpow_eq_mxWriteBack {s : State} (hA : s.mxAlen.toNat ≤ s.params.mxSize)
    (hB : s.mxBlen.toNat ≤ s.params.mxSize) (hM : s.mxMlen.toNat ≤ s.params.mxSize) :
    mxModpow s = mxWriteBack s (powerTable (operandA s) (operandB s) (operandM s)) := by
  rw [mxModpow, mxOperand_of_le hA, mxOperand_of_le hB, mxOperand_of_le hM, ← modPow_eq_powerTable]
  rfl

/-- R144. -/
theorem mxMod_eq_mxWriteBack {s : State} (hA : s.mxAlen.toNat ≤ s.params.mxSize)
    (hM : s.mxMlen.toNat ≤ s.params.mxSize) (hne : operandM s ≠ 0) :
    mxMod s = mxWriteBack s (operandA s % operandM s) := by
  rw [mxMod, mxOperand_of_le hA, mxOperand_of_le hM, ← modulo_eq_mod (Nat.pos_of_ne_zero hne)]
  exact if_neg hne

/-- R145. -/
theorem mxMul_eq_mxWriteBack {s : State} (hA : s.mxAlen.toNat ≤ s.params.mxSize)
    (hB : s.mxBlen.toNat ≤ s.params.mxSize) : mxMul s = mxWriteBack s (operandA s * operandB s) := by
  rw [mxMul, mxOperand_of_le hA, mxOperand_of_le hB]
  rfl

/-- R145: the digits of a product are at most those of both factors together, which MX_R has room for. -/
theorem resultFits_mul {s : State} (hA : s.mxAlen.toNat ≤ s.params.mxSize) (hB : s.mxBlen.toNat ≤ s.params.mxSize)
    (hmin : s.mxMinlen.toNat ≤ 2 * s.params.mxSize) : ResultFits s (operandA s * operandB s) := by
  have hdigits : natlen (operandA s * operandB s) ≤ s.mxAlen.toNat + s.mxBlen.toNat := by
    rw [natlen_le_iff, pow_add]
    exact Nat.mul_lt_mul'' (natOf_bufBytes_lt s .mxA _) (natOf_bufBytes_lt s .mxB _)
  exact max_le hmin (by omega)

/-- Settles O39: legal lengths bring MX.MODPOW to its write-back, of the power. -/
theorem modpowWritesThePower : Obligations.ModpowWritesThePower := by
  intro s hp hA hB hM hfit
  rw [exec, execMxModpow, mxModpow_eq_mxWriteBack hA hB hM]
  exact finish_mxWriteBack hp hfit

/-- Settles O40: legal lengths and a modulus that is not 0 bring MX.MOD to its write-back, of the remainder. -/
theorem modWritesTheRemainder : Obligations.ModWritesTheRemainder := by
  intro s hp hA hM hne hfit
  rw [exec, execMxMod, mxMod_eq_mxWriteBack hA hM hne]
  exact finish_mxWriteBack hp hfit

/-- Settles O41: legal lengths bring MX.MUL to its write-back, of a product that fits. -/
theorem mulWritesTheProduct : Obligations.MulWritesTheProduct := by
  intro s hp hA hB hmin
  rw [exec, execMxMul, mxMul_eq_mxWriteBack hA hB]
  exact finish_mxWriteBack hp (resultFits_mul hA hB hmin)

end Sys2Proof.Machine
end

section
/-! PROOFS. The pixel unit (42_pixel.md): the format of the registers (R160, R161), the bytes of IN as a number (R162)
and as a colour (R163 to R165), and the pixels of OUT behind a commit (R171); from them the statement about PX.CONV. -/

namespace Sys2Proof.Machine

open Sys2Proof.Claims

/-! ## The format -/

theorem bytesPerPixel_pos (s : State) : 0 < bytesPerPixel s := Nat.two_pow_pos _

/-- R160: BPPSEL is the binary logarithm of the bytes per pixel, but for its reserved value. -/
theorem bppOf_eq_some_pow {w : Word} (h : w.extractLsb' 0 2 ≠ 3#2) :
    bppOf w = some (2 ^ (w.extractLsb' 0 2).toNat) := by
  unfold bppOf
  generalize w.extractLsb' 0 2 = v at h
  revert v
  decide

theorem PixelFormat.legal_of_trueColour {f : PixelFormat} (h : f.trueColour = true) :
    f.legal = true ↔ (f.redMax ≠ 0 ∧ f.greenMax ≠ 0 ∧ f.blueMax ≠ 0) ∧
      f.redShift < 32 ∧ f.greenShift < 32 ∧ f.blueShift < 32 := by
  simp [PixelFormat.legal, h, and_assoc]

theorem PixelFormat.legal_of_grayscale {f : PixelFormat} (h : f.trueColour = false) :
    f.legal = true ↔ f.bpp = 1 := by
  simp [PixelFormat.legal, h]

/-- R161 (b), (c) and (d) against the fields that they name. -/
theorem legal_formatWith {s : State} (h : ¬IllegalFormat s) : (s.formatWith (bytesPerPixel s)).legal = true := by
  simp only [IllegalFormat, not_or, not_and, not_le] at h
  obtain ⟨_, hmax, hshift, hgray⟩ := h
  cases htrue : s.pfCtrl.getLsbD 9 with
  | true =>
    obtain ⟨hr, hg, hb⟩ := hmax htrue
    exact (PixelFormat.legal_of_trueColour htrue).mpr
      ⟨⟨BitVec.toNat_ne.mp hr, BitVec.toNat_ne.mp hg, BitVec.toNat_ne.mp hb⟩, hshift htrue⟩
  | false =>
    have hsel : s.pfCtrl.extractLsb' 0 2 = 0#2 := not_not.mp (hgray htrue)
    refine (PixelFormat.legal_of_grayscale htrue).mpr ?_
    rw [State.formatWith, bytesPerPixel, hsel]
    rfl

/-- R161: PFCHECK lets every format pass that none of its four clauses rejects. -/
theorem pfCheck_of_legal {s : State} (h : ¬IllegalFormat s) :
    s.pfCheck = .ok (s.formatWith (bytesPerPixel s)) :=
  pfCheck_eq_ok.mpr ⟨bppOf_eq_some_pow fun hres => h (.inl hres), legal_formatWith h, rfl⟩

/-- R161 (d): without true colour a legal pixel is one byte. -/
theorem bytesPerPixel_of_grayscale {s : State} (h : ¬IllegalFormat s) (hgray : s.pfCtrl.getLsbD 9 = false) :
    bytesPerPixel s = 1 := (PixelFormat.legal_of_grayscale hgray).mp (legal_formatWith h)

/-! ## The raw value -/

theorem slice_payload {s : State} {a n : Nat} (hfit : a + n ≤ s.inLen.toNat) :
    slice s.payload a n = (List.range n).map fun i => s.bufByte .inp (a + i) := by
  apply List.ext_getElem
  · simpa [slice] using Nat.le_sub_of_add_le' hfit
  · intro i _ _
    simp [slice, State.payload, State.bufBytes, State.bufByte]

/-- R162, big-endian: the first byte has the most weight. -/
theorem natOf_map_range (g : Nat → Byte) (n : Nat) :
    natOf ((List.range n).map g) = ((List.range n).map fun i => 256 ^ (n - 1 - i) * (g i).toNat).sum := by
  induction n generalizing g with
  | zero => rfl
  | succ n ih =>
    have hsplit : (List.range (n + 1)).map g = [g 0] ++ (List.range n).map (g ∘ Nat.succ) := by
      rw [List.range_succ_eq_map, List.map_cons, List.map_map]
      rfl
    have hweight (i : Nat) : n - 1 - i = n - (i + 1) := by omega
    rw [hsplit, natOf_append, ih, natOf_singleton, List.range_succ_eq_map]
    simp [Function.comp_def, hweight]

/-- R162, little-endian: the last byte has the most weight. -/
theorem natOf_reverse_map_range (g : Nat → Byte) (n : Nat) :
    natOf ((List.range n).map g).reverse = ((List.range n).map fun i => 256 ^ i * (g i).toNat).sum := by
  induction n with
  | zero => rfl
  | succ n ih =>
    have hsplit : ((List.range (n + 1)).map g).reverse = [g n] ++ ((List.range n).map g).reverse := by
      simp [List.range_succ]
    rw [hsplit, natOf_append, ih, natOf_singleton, List.range_succ]
    simp [Nat.add_comm]

theorem rawValue_slice_payload {s : State} {a : Nat} (hfit : a + bytesPerPixel s ≤ s.inLen.toNat) :
    rawValue (s.formatWith (bytesPerPixel s)) (slice s.payload a (bytesPerPixel s)) = rawPixel s a := by
  rw [slice_payload hfit, rawValue, rawPixel, natOf_map_range, natOf_reverse_map_range]
  cases hbig : s.pfCtrl.getLsbD 8 with
  | true => exact if_pos hbig
  | false => exact if_neg (ne_true_of_eq_false hbig)

/-! ## The colour -/

/-- R163: a masked value is at most the mask, so that a channel is a byte. -/
theorem channel_toNat (raw : Nat) (shift : BitVec 8) (max : BitVec 16) :
    (channel raw shift.toNat max.toNat).toNat = channelValue raw shift max := by
  have hbyte : ((raw / 2 ^ shift.toNat) &&& max.toNat) * 255 / max.toNat ≤ 255 :=
    Nat.div_le_of_le_mul (Nat.mul_le_mul_right 255 Nat.and_le_right)
  rw [channel, BitVec.toNat_ofNat, Nat.shiftRight_eq_div_pow, Nat.mod_eq_of_lt (by omega), channelValue]

theorem rawPixel_of_grayscale {s : State} (h : ¬IllegalFormat s) (hgray : s.pfCtrl.getLsbD 9 = false) (a : Nat) :
    rawPixel s a = inByte s a := by
  simp [rawPixel, bytesPerPixel_of_grayscale h hgray]

/-- R163 to R165: under a legal format the colour that the model gives the bytes of a pixel is the one of the spec. -/
theorem isPixelAt_pixAt {s : State} {a : Nat} (h : ¬IllegalFormat s) (hfit : a + bytesPerPixel s ≤ s.inLen.toNat) :
    IsPixelAt s a (pixAt (s.formatWith (bytesPerPixel s)) s.payload a) := by
  have hraw := rawValue_slice_payload hfit
  cases htrue : s.pfCtrl.getLsbD 9 with
  | true =>
    have hpix : pixAt (s.formatWith (bytesPerPixel s)) s.payload a =
        ⟨channel (rawPixel s a) (s.pfShift.extractLsb' 0 8).toNat (s.pfRmax.extractLsb' 0 16).toNat,
          channel (rawPixel s a) (s.pfShift.extractLsb' 8 8).toNat (s.pfGmax.extractLsb' 0 16).toNat,
          channel (rawPixel s a) (s.pfShift.extractLsb' 16 8).toNat (s.pfBmax.extractLsb' 0 16).toNat, 255⟩ := by
      rw [← hraw]
      exact if_pos htrue
    rw [hpix, IsPixelAt, if_pos htrue]
    exact ⟨rfl, channel_toNat _ _ _, channel_toNat _ _ _, channel_toNat _ _ _⟩
  | false =>
    have hpix : pixAt (s.formatWith (bytesPerPixel s)) s.payload a =
        ⟨s.bufByte .inp a, s.bufByte .inp a, s.bufByte .inp a, 255⟩ := by
      have hbyte : BitVec.ofNat 8 (rawPixel s a) = s.bufByte .inp a := by
        rw [rawPixel_of_grayscale h htrue, inByte, BitVec.ofNat_toNat, BitVec.setWidth_eq]
      rw [← hbyte, ← hraw]
      exact if_neg (ne_true_of_eq_false htrue)
    rw [hpix, IsPixelAt, if_neg (ne_true_of_eq_false htrue)]
    exact ⟨rfl, rfl, rfl, rfl⟩

/-! ## The pixels of OUT -/

/-- R171: pixel `k` of OUT is pixel `k` of the sequence committed. -/
theorem outPixel_withPixels {s : State} {px : List Rgba} {k : Nat} (hk : k < px.length) :
    outPixel (s.withPixels px).completeOk k = px[k] := by
  have hread {j : Nat} {b : Byte} (hj : (rgbaBytes px)[j]? = some b) :
      (s.withPixels px).completeOk.bufByte .out j = b := by
    obtain ⟨hlt, hb⟩ := List.getElem?_eq_some_iff.mp hj
    exact (Memory.read_writeBytes_add hlt).trans hb
  obtain ⟨hr, hg, hb, ha⟩ := rgbaBytes_getElem? px k hk
  rw [outPixel, hread hr, hread hg, hread hb, hread ha]

/-- R88, R95, R171, R180: what the commit of a pixel sequence that fits OUT leaves, with `complete OK`. -/
theorem wrotePixels_withPixels {s : State} (hp : s.params.wf = true) {px : List Rgba}
    (hfit : 4 * px.length ≤ s.params.outSize) : WrotePixels s (s.withPixels px).completeOk px.length where
  completed := State.completeOk_completedOk _
  outLen := (State.withPixels_outLen_toNat hp hfit).trans (rgbaBytes_length px)
  bytes a ha := Memory.read_writeBytes_of_not_mem (by rwa [rgbaBytes_length])
  others := rfl

/-! ## PX.CONV -/

/-- R169: the checks in order; with none of them failing the converted payload is committed. -/
theorem pxConv_of_legal {s : State} (h : ¬IllegalFormat s) (hin : s.inLen.toNat ≤ s.params.inSize)
    (hwhole : s.inLen.toNat % bytesPerPixel s = 0)
    (hout : 4 * (s.inLen.toNat / bytesPerPixel s) ≤ s.params.outSize) :
    pxConv s = .ok (s.withPixels (convertToRgba (s.formatWith (bytesPerPixel s)) s.payload)) := by
  rw [pxConv, pfCheck_of_legal h, checkInLen_eq_ok (u := ()).mpr hin]
  exact (if_neg (Nat.not_lt.mpr hout)).trans (if_neg (not_not.mpr hwhole))

/-- R168: pixel `k` of a conversion is the conversion of pixel `k`, whose bytes the payload holds. -/
theorem isPixelAt_convertToRgba {s : State} (h : ¬IllegalFormat s) {k : Nat}
    (hk : k < (convertToRgba (s.formatWith (bytesPerPixel s)) s.payload).length) :
    IsPixelAt s (k * bytesPerPixel s) (convertToRgba (s.formatWith (bytesPerPixel s)) s.payload)[k] := by
  have hcount : k + 1 ≤ s.inLen.toNat / bytesPerPixel s := by simpa [State.formatWith] using hk
  have hfit : k * bytesPerPixel s + bytesPerPixel s ≤ s.inLen.toNat := by
    rw [← Nat.succ_mul]
    exact (Nat.le_div_iff_mul_le (bytesPerPixel_pos s)).mp hcount
  simpa [convertToRgba, State.formatWith] using isPixelAt_pixAt h hfit

/-- Settles O46: the checks pass, and the pixels committed are those of the conversion. -/
theorem pxConvConvertsEveryPixel : Obligations.PxConvConvertsEveryPixel := by
  intro s hp h hin hwhole hout
  have hcount : (convertToRgba (s.formatWith (bytesPerPixel s)) s.payload).length =
      s.inLen.toNat / bytesPerPixel s := by
    rw [convertToRgba_length, State.payload_length]
    rfl
  rw [exec, execPxConv, pxConv_of_legal h hin hwhole hout, ← hcount]
  refine ⟨_, finish_ok _ _, wrotePixels_withPixels hp (hcount ▸ hout), fun k hk => ?_⟩
  rw [outPixel_withPixels hk]
  exact isPixelAt_convertToRgba h hk

end Sys2Proof.Machine
end

section
/-! PROOFS. PF_CTRL.DEPTH, RECT_X and RECT_Y (R166, R190): a change of the three commutes with every rule but that of
CLEAR, which overwrites them (R231), so that no other command can tell. -/

namespace Sys2Proof.Machine

/-- `s` with other values in the registers that hold DEPTH and the position of the rectangle. -/
def State.withDepthAndPosition (pf x y : Word) (s : State) : State := { s with pfCtrl := pf, rectX := x, rectY := y }

/-- The two values of PF_CTRL agree in every bit outside DEPTH, bits 23:16 (R36). -/
def AgreeButDepth (v w : Word) : Prop := v &&& 0xFF00FFFF#32 = w &&& 0xFF00FFFF#32

/-- BPPSEL, BIG_ENDIAN and TRUE_COLOUR stand in the low half of PF_CTRL, below DEPTH (R36). -/
theorem AgreeButDepth.getLsbD_eq {v w : Word} (h : AgreeButDepth v w) {i : Nat} (hi : i < 16) :
    v.getLsbD i = w.getLsbD i := by
  have hmask : ∀ i < 16, (0xFF00FFFF#32).getLsbD i = true := by decide
  have hbit := congrArg (BitVec.getLsbD · i) h
  simpa [BitVec.getLsbD_and, hmask i hi] using hbit

theorem AgreeButDepth.bppOf_eq {v w : Word} (h : AgreeButDepth v w) : bppOf v = bppOf w := by
  have hsel : v.extractLsb' 0 2 = w.extractLsb' 0 2 := by
    refine BitVec.eq_of_getLsbD_eq fun i hi => ?_
    simp [hi, h.getLsbD_eq (show i < 16 by omega)]
  unfold bppOf
  rw [hsel]

section
variable {s : State} {pf x y : Word}

/-! ## The checks -/

theorem formatWith_withDepthAndPosition (h : AgreeButDepth pf s.pfCtrl) (bpp : Nat) :
    (s.withDepthAndPosition pf x y).formatWith bpp = s.formatWith bpp := by
  have hbig : pf.getLsbD 8 = s.pfCtrl.getLsbD 8 := h.getLsbD_eq (by decide)
  have htrue : pf.getLsbD 9 = s.pfCtrl.getLsbD 9 := h.getLsbD_eq (by decide)
  simp only [State.formatWith, State.withDepthAndPosition, hbig, htrue]

/-- R166: the format in force does not contain DEPTH. -/
theorem pfCheck_withDepthAndPosition (h : AgreeButDepth pf s.pfCtrl) :
    (s.withDepthAndPosition pf x y).pfCheck = s.pfCheck := by
  have hbpp : bppOf (s.withDepthAndPosition pf x y).pfCtrl = bppOf s.pfCtrl := h.bppOf_eq
  simp only [State.pfCheck, hbpp, formatWith_withDepthAndPosition h]

theorem decPreCheck_withDepthAndPosition (h : AgreeButDepth pf s.pfCtrl) :
    decPreCheck (s.withDepthAndPosition pf x y) = decPreCheck s := by
  rw [decPreCheck, pfCheck_withDepthAndPosition h]
  rfl

/-! ## The rules -/

theorem pxConv_withDepthAndPosition (h : AgreeButDepth pf s.pfCtrl) :
    pxConv (s.withDepthAndPosition pf x y) = State.withDepthAndPosition pf x y <$> pxConv s := by
  rw [pxConv, pfCheck_withDepthAndPosition h, pxConv, map_bind]
  refine bind_congr fun f => ?_
  rw [map_bind]
  refine bind_congr fun _ => ?_
  rw [apply_ite (State.withDepthAndPosition pf x y <$> ·), apply_ite (State.withDepthAndPosition pf x y <$> ·)]
  rfl

theorem decRaw_withDepthAndPosition (h : AgreeButDepth pf s.pfCtrl) :
    decRaw (s.withDepthAndPosition pf x y) = State.withDepthAndPosition pf x y <$> decRaw s := by
  simp only [decRaw, decPreCheck_withDepthAndPosition h, map_bind]
  rfl

theorem decRre_withDepthAndPosition (h : AgreeButDepth pf s.pfCtrl) :
    decRre (s.withDepthAndPosition pf x y) = State.withDepthAndPosition pf x y <$> decRre s := by
  simp only [decRre, decPreCheck_withDepthAndPosition h, map_bind]
  rfl

theorem decHextile_withDepthAndPosition (h : AgreeButDepth pf s.pfCtrl) :
    decHextile (s.withDepthAndPosition pf x y) = State.withDepthAndPosition pf x y <$> decHextile s := by
  simp only [decHextile, decPreCheck_withDepthAndPosition h, map_bind]
  rfl

variable (s pf x y)

theorem decCopyrect_withDepthAndPosition :
    decCopyrect (s.withDepthAndPosition pf x y) = State.withDepthAndPosition pf x y <$> decCopyrect s := by
  simp only [decCopyrect, map_bind]
  rfl

theorem mxWriteBack_withDepthAndPosition (v : Nat) :
    mxWriteBack (s.withDepthAndPosition pf x y) v = State.withDepthAndPosition pf x y <$> mxWriteBack s v := by
  rw [mxWriteBack, mxWriteBack, apply_ite (State.withDepthAndPosition pf x y <$> ·)]
  rfl

theorem mxModpow_withDepthAndPosition :
    mxModpow (s.withDepthAndPosition pf x y) = State.withDepthAndPosition pf x y <$> mxModpow s := by
  simp only [mxModpow, mxWriteBack_withDepthAndPosition, map_bind]
  rfl

theorem mxMod_withDepthAndPosition :
    mxMod (s.withDepthAndPosition pf x y) = State.withDepthAndPosition pf x y <$> mxMod s := by
  simp only [mxMod, mxWriteBack_withDepthAndPosition, map_bind, apply_ite (State.withDepthAndPosition pf x y <$> ·)]
  rfl

theorem mxMul_withDepthAndPosition :
    mxMul (s.withDepthAndPosition pf x y) = State.withDepthAndPosition pf x y <$> mxMul s := by
  simp only [mxMul, mxWriteBack_withDepthAndPosition, map_bind]
  rfl

/-! ## The completion -/

/-- Either completion writes the lifecycle registers alone (R88, R89). -/
theorem finish_withDepthAndPosition {s t : State} {r : Except CmdError State} (h : finish s r = .next t) :
    finish (s.withDepthAndPosition pf x y) (State.withDepthAndPosition pf x y <$> r) =
      .next (t.withDepthAndPosition pf x y) := by
  rcases finish_eq_next h with ⟨u, rfl, rfl⟩ | ⟨e, rfl, rfl⟩
  · rfl
  · rfl

theorem exec_withDepthAndPosition {s t : State} {i : Instr} (hi : i ≠ .clear) (hpf : AgreeButDepth pf s.pfCtrl)
    (h : exec i s = .next t) : exec i (s.withDepthAndPosition pf x y) = .next (t.withDepthAndPosition pf x y) := by
  rw [exec_eq_finish] at h ⊢
  refine Eq.trans (congrArg (finish _) ?_) (finish_withDepthAndPosition pf x y h)
  cases i with
  | clear => exact absurd rfl hi
  | nop | desEnc kr => rfl
  | mxModpow => exact mxModpow_withDepthAndPosition s pf x y
  | mxMod => exact mxMod_withDepthAndPosition s pf x y
  | mxMul => exact mxMul_withDepthAndPosition s pf x y
  | pxConv => exact pxConv_withDepthAndPosition hpf
  | decRaw => exact decRaw_withDepthAndPosition hpf
  | decCopyrect => exact decCopyrect_withDepthAndPosition s pf x y
  | decRre => exact decRre_withDepthAndPosition hpf
  | decHextile => exact decHextile_withDepthAndPosition hpf

end

/-- Settles O60: the command on the changed state answers the changed next state, and no other. -/
theorem depthAndPositionHaveNoEffect : Obligations.DepthAndPositionHaveNoEffect := by
  intro i s pf x y t u hi hpf ht hu
  exact Host.Outcome.next.inj (hu.symm.trans (exec_withDepthAndPosition pf x y hi hpf ht))

end Sys2Proof.Machine
end

section
/-! PROOFS. The rectangle decoders (R180 to R189, R191): the rule that DEC.RAW, DEC.RRE and DEC.HEXTILE share, the
pixels of OUT behind it, and the statements about DEC.RAW, DEC.COPYRECT, DEC.RRE and empty rectangles. -/

namespace Sys2Proof.Machine

open Sys2Proof.Claims

/-! ## The rectangle as a pixel sequence -/

/-- The place of a pixel in the rectangle is below the number of pixels. -/
theorem row_mul_add_lt {w h col row : Nat} (hcol : col < w) (hrow : row < h) : row * w + col < w * h :=
  calc row * w + col < (row + 1) * w := by rw [Nat.succ_mul]; exact Nat.add_lt_add_left hcol _
    _ ≤ h * w := Nat.mul_le_mul_right w hrow
    _ = w * h := Nat.mul_comm h w

/-- R180: row-major order puts pixel (col, row) at place `row * w + col`. -/
theorem Canvas.pixels_getElem? (px : Canvas) {w h col row : Nat} (hcol : col < w) (hrow : row < h) :
    (px.pixels w h)[row * w + col]? = some (px col row) := by
  induction h with
  | zero => exact absurd hrow (Nat.not_lt_zero row)
  | succ h ih =>
    have hsplit : px.pixels w (h + 1) = px.pixels w h ++ (List.range w).map fun col => px col h := by
      simp [Canvas.pixels, List.range_succ]
    have hlen : (px.pixels w h).length = h * w := by rw [Canvas.pixels_length, Nat.mul_comm]
    rcases Nat.lt_succ_iff_lt_or_eq.mp hrow with hlt | rfl
    · have hbelow : row * w + col < (px.pixels w h).length := by
        rw [Canvas.pixels_length]
        exact row_mul_add_lt hcol hlt
      rw [hsplit, List.getElem?_append_left hbelow, ih hlt]
    · rw [hsplit, List.getElem?_append_right (by omega), hlen]
      simp [hcol]

/-- R171, R180: the pixel of OUT at the place of (col, row) behind the commit of a rectangle. -/
theorem outPixel_rectangle (s : State) (px : Canvas) {w h col row : Nat} (hcol : col < w) (hrow : row < h) :
    outPixel (s.withPixels (px.pixels w h)).completeOk (row * w + col) = px col row := by
  obtain ⟨hlt, heq⟩ := List.getElem?_eq_some_iff.mp (px.pixels_getElem? hcol hrow)
  exact (outPixel_withPixels hlt).trans heq

/-! ## The shared rule of the decoders -/

/-- R182 with R180: a decoder runs behind the pre-checks, and what it paints is committed. -/
def decodeRect (s : State) (decoder : PixelFormat → Except CmdError Canvas) : Except CmdError State := do
  let f ← decPreCheck s
  let px ← decoder f
  .ok (s.withPixels (px.pixels s.rectWidth s.rectHeight))

theorem exec_decRaw (s : State) : exec .decRaw s =
    finish s (decodeRect s fun f => decodeRaw f s.rectWidth s.rectHeight s.payload) := rfl

theorem exec_decRre (s : State) : exec .decRre s =
    finish s (decodeRect s fun f => decodeRre f s.rectWidth s.rectHeight s.payload) := rfl

theorem exec_decHextile (s : State) : exec .decHextile s =
    finish s (decodeRect s fun f =>
      decodeHextile f s.rectWidth s.rectHeight s.params.hxInitBg s.params.hxInitFg s.payload) := rfl

/-- The command ends OK with the pixels of `px` in OUT. -/
def CommitsCanvas (s : State) (px : Canvas) (o : Host.Outcome State Fault Refusal) : Prop :=
  ∃ t, o = .next t ∧ WrotePixels s t (s.rectWidth * s.rectHeight) ∧
    ∀ row < s.rectHeight, ∀ col < s.rectWidth, outPixel t (row * s.rectWidth + col) = px col row

section
variable {s : State}

/-- R191: in an empty rectangle no pixel is written. -/
theorem CommitsCanvas.wrote_none {px : Canvas} {o : Host.Outcome State Fault Refusal} (h : CommitsCanvas s px o)
    (hempty : s.rectWidth * s.rectHeight = 0) : ∃ t, o = .next t ∧ WrotePixels s t 0 := by
  obtain ⟨t, ht, hwrote, -⟩ := h
  exact ⟨t, ht, hempty ▸ hwrote⟩

variable (h : ¬IllegalFormat s) (hin : s.inLen.toNat ≤ s.params.inSize)
  (hout : s.rectWidth * s.rectHeight * 4 ≤ s.params.outSize)
include h hin hout

/-- R182: with a legal format and lengths that fit, the decoder alone decides. -/
theorem decodeRect_of_legal (decoder : PixelFormat → Except CmdError Canvas) :
    decodeRect s decoder = (decoder (s.formatWith (bytesPerPixel s))).map
      fun px => s.withPixels (px.pixels s.rectWidth s.rectHeight) := by
  rw [decodeRect, decPreCheck_eq_ok.mpr ⟨pfCheck_of_legal h, hin, hout⟩]
  rfl

variable (hp : s.params.wf = true) {px : Canvas}
include hp

theorem decodeRect_commitsCanvas {decoder : PixelFormat → Except CmdError Canvas}
    (hpx : decoder (s.formatWith (bytesPerPixel s)) = .ok px) :
    CommitsCanvas s px (finish s (decodeRect s decoder)) := by
  have hfit : 4 * (px.pixels s.rectWidth s.rectHeight).length ≤ s.params.outSize := by
    rw [Canvas.pixels_length]
    omega
  have hwrote := wrotePixels_withPixels hp hfit
  rw [Canvas.pixels_length] at hwrote
  rw [decodeRect_of_legal h hin hout, hpx]
  exact ⟨_, rfl, hwrote, fun row hrow col hcol => outPixel_rectangle s px hcol hrow⟩

theorem decRaw_commitsCanvas
    (hpx : decodeRaw (s.formatWith (bytesPerPixel s)) s.rectWidth s.rectHeight s.payload = .ok px) :
    CommitsCanvas s px (exec .decRaw s) := by
  rw [exec_decRaw]
  exact decodeRect_commitsCanvas h hin hout hp hpx

theorem decRre_commitsCanvas
    (hpx : decodeRre (s.formatWith (bytesPerPixel s)) s.rectWidth s.rectHeight s.payload = .ok px) :
    CommitsCanvas s px (exec .decRre s) := by
  rw [exec_decRre]
  exact decodeRect_commitsCanvas h hin hout hp hpx

theorem decHextile_commitsCanvas
    (hpx : decodeHextile (s.formatWith (bytesPerPixel s)) s.rectWidth s.rectHeight s.params.hxInitBg
      s.params.hxInitFg s.payload = .ok px) :
    CommitsCanvas s px (exec .decHextile s) := by
  rw [exec_decHextile]
  exact decodeRect_commitsCanvas h hin hout hp hpx

end

/-! ## DEC.RAW -/

/-- R184: `decode_raw` needs the bytes of all pixels and no more. -/
theorem decodeRaw_of_le {f : PixelFormat} {w h : Nat} {bs : List Byte} (hlen : w * h * f.bpp ≤ bs.length) :
    decodeRaw f w h bs = .ok fun col row => pixAt f bs ((row * w + col) * f.bpp) := by
  rw [decodeRaw, (need_eq_ok (u := ())).mpr (by rwa [Nat.zero_add])]
  rfl

/-- Settles O47: the payload holds every pixel that `decode_raw` converts. -/
theorem rawConvertsRowMajor : Obligations.RawConvertsRowMajor := by
  intro s hp h hin hout hlen
  have hdecode := decodeRaw_of_le (f := s.formatWith (bytesPerPixel s)) (bs := s.payload)
    (hlen.trans_eq s.payload_length.symm)
  obtain ⟨t, ht, hwrote, hpix⟩ := decRaw_commitsCanvas h hin hout hp hdecode
  refine ⟨t, ht, hwrote, fun row hrow col hcol => ?_⟩
  have hfit : (row * s.rectWidth + col) * bytesPerPixel s + bytesPerPixel s ≤ s.inLen.toNat := by
    rw [← Nat.succ_mul]
    exact (Nat.mul_le_mul_right _ (row_mul_add_lt hcol hrow)).trans hlen
  rw [hpix row hrow col hcol]
  exact isPixelAt_pixAt h hfit

/-! ## DEC.COPYRECT -/

/-- R10, R67 (c): two bytes of the payload are two bytes of IN. -/
theorem be16At_payload {s : State} {a : Nat} (hfit : a + 2 ≤ s.inLen.toNat) : be16At s.payload a = in16 s a := by
  rw [be16At, slice_payload hfit]
  exact natOf_pair _ _

theorem be16At_ofNat_toNat (bs : List Byte) (a : Nat) : (BitVec.ofNat 32 (be16At bs a)).toNat = be16At bs a := by
  have hlt := be16At_lt bs a
  rw [BitVec.toNat_ofNat, Nat.mod_eq_of_lt (by omega)]

theorem decCopyrect_of_le {s : State} (hin : s.inLen.toNat ≤ s.params.inSize) (hlen : 4 ≤ s.inLen.toNat) :
    decCopyrect s = .ok
      { s with srcX := BitVec.ofNat 32 (be16At s.payload 0), srcY := BitVec.ofNat 32 (be16At s.payload 2) } := by
  rw [decCopyrect, checkInLen_eq_ok (u := ()).mpr hin, decodeCopyrect,
    need_eq_ok (u := ()).mpr (by rwa [State.payload_length])]
  rfl

theorem decCopyrect_of_short {s : State} (hin : s.inLen.toNat ≤ s.params.inSize) (hlen : s.inLen.toNat < 4) :
    decCopyrect s = .error ⟨.protocol, 0⟩ := by
  rw [decCopyrect, checkInLen_eq_ok (u := ()).mpr hin, decodeCopyrect,
    need_eq_error.mpr ⟨by rwa [State.payload_length], rfl⟩]
  rfl

theorem decCopyrect_of_inSize_lt {s : State} (hin : s.params.inSize < s.inLen.toNat) :
    decCopyrect s = .error ⟨.capacity, 0⟩ := by
  rw [decCopyrect, checkInLen_eq_error.mpr ⟨hin, rfl⟩]
  rfl

/-- Settles O48: one outcome for each of the three ranges of IN_LEN. -/
theorem copyrectReadsTheSource : Obligations.CopyrectReadsTheSource := by
  intro s
  refine ⟨fun hin hlen => ?_, fun hin hlen => ?_, fun hin => ?_⟩
  · refine ⟨_, congrArg (finish s) (decCopyrect_of_le hin hlen), State.completeOk_completedOk _, ?_, ?_, rfl⟩
    · exact (be16At_ofNat_toNat _ _).trans (be16At_payload (by omega))
    · exact (be16At_ofNat_toNat _ _).trans (be16At_payload (by omega))
  · exact congrArg (finish s) (decCopyrect_of_short hin hlen)
  · exact congrArg (finish s) (decCopyrect_of_inSize_lt hin)

/-! ## DEC.RRE: the records that are applied -/

/-- The pixels behind the first `n` records from offset `cur` on, in wire order (R187). -/
def rrePainted (f : PixelFormat) (w h : Nat) (bs : List Byte) (cur : Nat) (px : Canvas) (n : Nat) : Canvas :=
  (List.range n).foldl (fun px r => rreRecord f w h bs (cur + r * (f.bpp + 8)) px) px

section
variable (f : PixelFormat) (w h : Nat) (bs : List Byte) (cur : Nat) (px : Canvas) (n : Nat)

/-- One more record is painted last. -/
theorem rrePainted_succ : rrePainted f w h bs cur px (n + 1) =
    rreRecord f w h bs (cur + n * (f.bpp + 8)) (rrePainted f w h bs cur px n) := by
  simp [rrePainted, List.range_succ]

/-- The first record is painted first. -/
theorem rrePainted_succ' : rrePainted f w h bs cur px (n + 1) =
    rrePainted f w h bs (cur + f.bpp + 8) (rreRecord f w h bs cur px) n := by
  have hnext (r : Nat) : cur + (r + 1) * (f.bpp + 8) = cur + f.bpp + 8 + r * (f.bpp + 8) := by
    rw [Nat.succ_mul]; omega
  simp [rrePainted, List.range_succ_eq_map, List.foldl_map, hnext]

end

/-- R187, R188: the loop paints the records declared, as far as they are wholly there. -/
theorem rreLoop_eq_rrePainted (f : PixelFormat) (w h : Nat) (bs : List Byte) (count cur : Nat) (px : Canvas) :
    rreLoop f w h bs count cur px =
      rrePainted f w h bs cur px (min count ((bs.length - cur) / (f.bpp + 8))) := by
  induction count generalizing cur px with
  | zero => simp [rreLoop, rrePainted]
  | succ count ih =>
    rw [rreLoop]
    split
    next hshort =>
      have hnone : (bs.length - cur) / (f.bpp + 8) = 0 := Nat.div_eq_of_lt (by omega)
      simp [hnone, rrePainted]
    next hwhole =>
      have hone : (bs.length - cur) / (f.bpp + 8) = (bs.length - (cur + f.bpp + 8)) / (f.bpp + 8) + 1 := by
        rw [Nat.div_eq_sub_div (by omega) (by omega), Nat.sub_sub, Nat.add_assoc]
      rw [ih, hone, Nat.add_min_add_right, rrePainted_succ']

/-! ## DEC.RRE: what a record covers -/

/-- R189: clipping does not matter inside the bound. -/
theorem lt_add_clipped_iff {start len bound i : Nat} (hi : i < bound) :
    i < start + clipped start len bound ↔ i < start + len := by
  unfold clipped
  omega

section
variable {s : State} {r col row : Nat}

/-- R186, R189: inside the rectangle the clipped area of a record is what it covers. -/
theorem rreArea_iff (hfit : rreOffset s r + bytesPerPixel s + 8 ≤ s.inLen.toNat) (hcol : col < s.rectWidth)
    (hrow : row < s.rectHeight) :
    let o := rreOffset s r + bytesPerPixel s
    (be16At s.payload o ≤ col ∧
        col < be16At s.payload o + clipped (be16At s.payload o) (be16At s.payload (o + 4)) s.rectWidth ∧
        be16At s.payload (o + 2) ≤ row ∧
        row < be16At s.payload (o + 2) +
          clipped (be16At s.payload (o + 2)) (be16At s.payload (o + 6)) s.rectHeight) ↔
      RreCovers s r col row := by
  intro o
  rw [be16At_payload (by omega), be16At_payload (by omega), be16At_payload (by omega), be16At_payload (by omega)]
  exact and_congr_right' (and_congr (lt_add_clipped_iff hcol) (and_congr_right' (lt_add_clipped_iff hrow)))

theorem rreRecord_of_covers (hfit : rreOffset s r + bytesPerPixel s + 8 ≤ s.inLen.toNat) (hcol : col < s.rectWidth)
    (hrow : row < s.rectHeight) (hcov : RreCovers s r col row) (px : Canvas) :
    rreRecord (s.formatWith (bytesPerPixel s)) s.rectWidth s.rectHeight s.payload (rreOffset s r) px col row =
      pixAt (s.formatWith (bytesPerPixel s)) s.payload (rreOffset s r) :=
  Canvas.fill_inside ((rreArea_iff hfit hcol hrow).mpr hcov)

theorem rreRecord_of_not_covers (hfit : rreOffset s r + bytesPerPixel s + 8 ≤ s.inLen.toNat)
    (hcol : col < s.rectWidth) (hrow : row < s.rectHeight) (hcov : ¬RreCovers s r col row) (px : Canvas) :
    rreRecord (s.formatWith (bytesPerPixel s)) s.rectWidth s.rectHeight s.payload (rreOffset s r) px col row =
      px col row :=
  Canvas.fill_outside (mt (rreArea_iff hfit hcol hrow).mp hcov)

/-- R188: an applied record is wholly in the payload. -/
theorem rreRecord_fits (hlen : 4 + bytesPerPixel s ≤ s.inLen.toNat) (hr : r < rreApplied s) :
    rreOffset s r + bytesPerPixel s + 8 ≤ s.inLen.toNat := by
  have hcount : r + 1 ≤ (s.inLen.toNat - (4 + bytesPerPixel s)) / (bytesPerPixel s + 8) :=
    hr.trans_le (Nat.min_le_right _ _)
  have hbytes := (Nat.le_div_iff_mul_le (by omega)).mp hcount
  rw [Nat.succ_mul] at hbytes
  unfold rreOffset
  omega

end

/-! ## DEC.RRE: the last cover wins -/

/-- The pixels of DEC.RRE on `s` behind its first `n` records, over the background. -/
def rreCanvas (s : State) (n : Nat) : Canvas :=
  rrePainted (s.formatWith (bytesPerPixel s)) s.rectWidth s.rectHeight s.payload (4 + bytesPerPixel s)
    (fun _ _ => pixAt (s.formatWith (bytesPerPixel s)) s.payload 4) n

theorem rreCanvas_succ (s : State) (n : Nat) : rreCanvas s (n + 1) =
    rreRecord (s.formatWith (bytesPerPixel s)) s.rectWidth s.rectHeight s.payload (rreOffset s n) (rreCanvas s n) :=
  rrePainted_succ _ _ _ _ _ _ _

section
variable {s : State} {n col row : Nat}

theorem rreCanvas_of_uncovered (hlen : 4 + bytesPerPixel s ≤ s.inLen.toNat) (hn : n ≤ rreApplied s)
    (hcol : col < s.rectWidth) (hrow : row < s.rectHeight) (hnone : ∀ r < n, ¬RreCovers s r col row) :
    rreCanvas s n col row = pixAt (s.formatWith (bytesPerPixel s)) s.payload 4 := by
  induction n with
  | zero => rfl
  | succ n ih =>
    rw [rreCanvas_succ, rreRecord_of_not_covers (rreRecord_fits hlen hn) hcol hrow (hnone n n.lt_succ_self)]
    exact ih (by omega) fun r hr => hnone r (by omega)

theorem rreCanvas_of_last_cover (hlen : 4 + bytesPerPixel s ≤ s.inLen.toNat) (hn : n ≤ rreApplied s)
    (hcol : col < s.rectWidth) (hrow : row < s.rectHeight) {r : Nat} (hr : r < n) (hcov : RreCovers s r col row)
    (hlast : ∀ q, r < q → q < n → ¬RreCovers s q col row) :
    rreCanvas s n col row = pixAt (s.formatWith (bytesPerPixel s)) s.payload (rreOffset s r) := by
  induction n with
  | zero => exact absurd hr (Nat.not_lt_zero r)
  | succ n ih =>
    rw [rreCanvas_succ]
    rcases Nat.lt_succ_iff_lt_or_eq.mp hr with hlt | rfl
    · rw [rreRecord_of_not_covers (rreRecord_fits hlen hn) hcol hrow (hlast n hlt n.lt_succ_self)]
      exact ih (by omega) hlt fun q hrq hq => hlast q hrq (by omega)
    · exact rreRecord_of_covers (rreRecord_fits hlen hn) hcol hrow hcov _

end

/-- R186: the count is the first four bytes of IN. -/
theorem be32At_payload {s : State} (hlen : 4 ≤ s.inLen.toNat) : be32At s.payload 0 = rreCount s := by
  have hbytes : slice s.payload 0 4 = [s.bufByte .inp 0, s.bufByte .inp 1, s.bufByte .inp 2, s.bufByte .inp 3] :=
    slice_payload (by omega)
  rw [be32At, hbytes, natOf_four]
  simp only [rreCount, in16, inByte, Nat.zero_add, Nat.reduceAdd]
  omega

/-- R187: a payload with its header decodes. -/
theorem decodeRre_payload {s : State} (hlen : 4 + bytesPerPixel s ≤ s.inLen.toNat) :
    decodeRre (s.formatWith (bytesPerPixel s)) s.rectWidth s.rectHeight s.payload =
      .ok (rreCanvas s (rreApplied s)) := by
  have hcount : need s.payload 0 4 = .ok () := need_eq_ok.mpr (by rw [State.payload_length]; omega)
  have hbg := readPix_eq_ok (f := s.formatWith (bytesPerPixel s)) (bs := s.payload) (cur := 4).mpr
    ⟨by rwa [State.payload_length], rfl⟩
  rw [decodeRre, hcount, hbg]
  refine congrArg Except.ok ?_
  rw [rreLoop_eq_rrePainted, be32At_payload (by omega), State.payload_length]
  rfl

/-- Settles O49, from what the canvas of the applied records holds. -/
theorem rreLastCoveringRecordWins : Obligations.RreLastCoveringRecordWins := by
  intro s hp h hin hout hlen
  obtain ⟨t, ht, hwrote, hpix⟩ := decRre_commitsCanvas h hin hout hp (decodeRre_payload hlen)
  refine ⟨t, ht, hwrote, fun row hrow col hcol => ?_⟩
  rw [hpix row hrow col hcol]
  refine ⟨fun r hr hcov hlast => ?_, fun hnone => ?_⟩
  · rw [rreCanvas_of_last_cover hlen le_rfl hcol hrow hr hcov hlast]
    exact isPixelAt_pixAt h ((Nat.le_add_right _ 8).trans (rreRecord_fits hlen hr))
  · rw [rreCanvas_of_uncovered hlen le_rfl hcol hrow hnone]
    exact isPixelAt_pixAt h hlen

/-! ## Empty rectangles -/

/-- R210: an empty rectangle has no tiles. -/
theorem tileOrigins_of_empty {w h : Nat} (hempty : w = 0 ∨ h = 0) : tileOrigins w h = [] := by
  rcases hempty with rfl | rfl <;> simp [tileOrigins]

/-- R187: without its count or its background a payload is ERR_PROTOCOL. -/
theorem decodeRre_of_short {f : PixelFormat} {bs : List Byte} (hlen : bs.length < 4 + f.bpp) (w h : Nat) :
    ∃ info, decodeRre f w h bs = .error ⟨.protocol, info⟩ := by
  rcases Nat.lt_or_ge bs.length 4 with hcount | hcount
  · refine ⟨BitVec.ofNat 32 0, ?_⟩
    rw [decodeRre, need_eq_error.mpr ⟨by rwa [Nat.zero_add], rfl⟩]
    rfl
  · refine ⟨BitVec.ofNat 32 4, ?_⟩
    rw [decodeRre, need_eq_ok (u := ()).mpr (by rwa [Nat.zero_add]), readPix_eq_error.mpr ⟨hlen, rfl⟩]
    rfl

/-- Settles O50: an empty rectangle needs no bytes but the header of DEC.RRE. -/
theorem emptyRectangles : Obligations.EmptyRectangles := by
  intro s hp h hin hempty
  have hzero : s.rectWidth * s.rectHeight = 0 := Nat.mul_eq_zero.mpr hempty
  have hout : s.rectWidth * s.rectHeight * 4 ≤ s.params.outSize := by simp [hzero]
  refine ⟨?_, ?_, fun hlen => ?_, fun hlen => ?_⟩
  · have hdecode := decodeRaw_of_le (f := s.formatWith (bytesPerPixel s)) (w := s.rectWidth) (h := s.rectHeight)
      (bs := s.payload) (by simp [hzero])
    exact (decRaw_commitsCanvas h hin hout hp hdecode).wrote_none hzero
  · have hdecode : decodeHextile (s.formatWith (bytesPerPixel s)) s.rectWidth s.rectHeight s.params.hxInitBg
        s.params.hxInitFg s.payload = .ok fun _ _ => s.params.hxInitBg := by
      rw [decodeHextile, tileOrigins_of_empty hempty]
      rfl
    exact (decHextile_commitsCanvas h hin hout hp hdecode).wrote_none hzero
  · exact (decRre_commitsCanvas h hin hout hp (decodeRre_payload hlen)).wrote_none hzero
  · obtain ⟨info, herror⟩ := decodeRre_of_short (f := s.formatWith (bytesPerPixel s)) (bs := s.payload)
      (by rwa [State.payload_length]) s.rectWidth s.rectHeight
    rw [exec_decRre, decodeRect_of_legal h hin hout, herror]
    exact ⟨_, rfl, rfl⟩

end Sys2Proof.Machine
end

section
/-! PROOFS. The tile loop of DEC.HEXTILE over different pixel arrays (R180, R210, R219): what a tile reads does not
depend on the array, and it assigns all its pixels; from this the statement that a decoding assigns every pixel. -/

namespace Sys2Proof.Machine

open Sys2Proof.Claims

/-! ## The parts of a tile -/

theorem except_bind_eq_ok {ε α β : Type} {x : Except ε α} {g : α → Except ε β} {b : β} :
    (x >>= g) = .ok b ↔ ∃ a, x = .ok a ∧ g a = .ok b := by
  cases x with
  | error e => exact ⟨nofun, nofun⟩
  | ok a => exact ⟨fun h => ⟨a, rfl, h⟩, fun ⟨_, ha, h⟩ => Except.ok.inj ha ▸ h⟩

section
variable {f : PixelFormat} {bs : List Byte} {st st' : HexState}

/-- R215, R216: a subrectangle is its colour, then two bytes, and a clipped fill. -/
theorem hexSubrect_eq_ok {tx ty tw th : Nat} {coloured : Bool} :
    hexSubrect f bs tx ty tw th coloured st = .ok st' ↔
      ∃ c, hexColour f bs coloured st = .ok c ∧ c.2 + 2 ≤ bs.length ∧
        st' = { st with
          cur := c.2 + 2
          px := st.px.fill (tx + ((byteAt bs c.2).extractLsb' 4 4).toNat) (ty + ((byteAt bs c.2).extractLsb' 0 4).toNat)
            (clipped ((byteAt bs c.2).extractLsb' 4 4).toNat (((byteAt bs (c.2 + 1)).extractLsb' 4 4).toNat + 1) tw)
            (clipped ((byteAt bs c.2).extractLsb' 0 4).toNat (((byteAt bs (c.2 + 1)).extractLsb' 0 4).toNat + 1) th)
            c.1 } := by
  simp only [hexSubrect, except_bind_eq_ok, need_eq_ok, Except.ok.injEq, exists_and_left, exists_const]
  refine exists_congr fun c => and_congr_right fun _ => ?_
  constructor
  · rintro ⟨_, hlen, rfl⟩
    exact ⟨hlen, rfl⟩
  · rintro ⟨hlen, rfl⟩
    exact ⟨by omega, hlen, rfl⟩

/-- R214, R215: the background, the fill, the foreground and the subrectangles follow one another. -/
theorem hexFilledTile_eq_ok {tx ty tw th : Nat} {flags : Byte} :
    hexFilledTile f bs tx ty tw th flags st = .ok st' ↔
      ∃ a, hexBackground f bs (flags.getLsbD 1) st = .ok a ∧
        ∃ b, hexForeground f bs (flags.getLsbD 2) { a with px := a.px.fill tx ty tw th a.bg } = .ok b ∧
          hexAnySubrects f bs tx ty tw th (flags.getLsbD 3) (flags.getLsbD 4) b = .ok st' := by
  simp only [hexFilledTile, except_bind_eq_ok]

/-- R211, R213: the flag byte, then a tile of the kind that it says. -/
theorem hexTile_eq_ok {w h : Nat} {origin : Nat × Nat} :
    hexTile f bs w h st origin = .ok st' ↔
      st.cur + 1 ≤ bs.length ∧
        (if (byteAt bs st.cur).getLsbD 0 then
          hexRawTile f bs origin.1 origin.2 (tileExtent w origin.1) (tileExtent h origin.2)
            { st with cur := st.cur + 1 }
        else hexFilledTile f bs origin.1 origin.2 (tileExtent w origin.1) (tileExtent h origin.2) (byteAt bs st.cur)
          { st with cur := st.cur + 1 }) = .ok st' := by
  simp only [hexTile, except_bind_eq_ok, need_eq_ok, exists_and_left, exists_const, tileExtent]

end

/-! ## Arrays that agree -/

/-- The w by h area with top left corner (x, y), as `Canvas.fill` has it. -/
def area (x y w h : Nat) (col row : Nat) : Prop := x ≤ col ∧ col < x + w ∧ y ≤ row ∧ row < y + h

/-- The pixels of the tile at `origin` (R210). -/
def tileArea (w h : Nat) (origin : Nat × Nat) : Nat → Nat → Prop :=
  area origin.1 origin.2 (tileExtent w origin.1) (tileExtent h origin.2)

/-- Two pixel arrays agree on the pixels in `A`. -/
def Canvas.AgreeOn (A : Nat → Nat → Prop) (p q : Canvas) : Prop := ∀ col row, A col row → q col row = p col row

theorem Canvas.AgreeOn.mono {A B : Nat → Nat → Prop} {p q : Canvas} (hpq : p.AgreeOn A q) (hBA : B ≤ A) :
    p.AgreeOn B q := fun col row hB => hpq col row (hBA col row hB)

/-- A fill makes two arrays agree in its area, and keeps them agreeing where they did. -/
theorem Canvas.AgreeOn.fill {A : Nat → Nat → Prop} {p q : Canvas} (hpq : p.AgreeOn A q) (x y w h : Nat) (c : Rgba) :
    (p.fill x y w h c).AgreeOn (A ⊔ area x y w h) (q.fill x y w h c) := by
  intro col row hin
  by_cases harea : area x y w h col row
  · rw [Canvas.fill_inside harea, Canvas.fill_inside harea]
  · rw [Canvas.fill_outside harea, Canvas.fill_outside harea]
    exact hpq col row (hin.resolve_right harea)

/-- What `op` does over an array it does over any other, but for the array; from arrays that agree on `A` it leaves
arrays that agree on `B`. -/
def KeepsAgreement (A B : Nat → Nat → Prop) (op : HexState → Except CmdError HexState) : Prop :=
  ∀ ⦃st st' : HexState⦄ ⦃q : Canvas⦄, op st = .ok st' → st.px.AgreeOn A q →
    ∃ q', op { st with px := q } = .ok { st' with px := q' } ∧ st'.px.AgreeOn B q'

section
variable {A : Nat → Nat → Prop} (f : PixelFormat) (bs : List Byte) (tx ty tw th : Nat)

theorem hexBackground_keepsAgreement (specified : Bool) : KeepsAgreement A A (hexBackground f bs specified) := by
  intro st st' q hst hq
  obtain ⟨hfit, rfl⟩ := hexBackground_eq_ok.mp hst
  cases specified with
  | false => exact ⟨q, rfl, hq⟩
  | true => exact ⟨q, hexBackground_eq_ok.mpr ⟨hfit, rfl⟩, hq⟩

theorem hexForeground_keepsAgreement (specified : Bool) : KeepsAgreement A A (hexForeground f bs specified) := by
  intro st st' q hst hq
  obtain ⟨hfit, rfl⟩ := hexForeground_eq_ok.mp hst
  cases specified with
  | false => exact ⟨q, rfl, hq⟩
  | true => exact ⟨q, hexForeground_eq_ok.mpr ⟨hfit, rfl⟩, hq⟩

theorem hexSubrect_keepsAgreement (coloured : Bool) :
    KeepsAgreement A A (hexSubrect f bs tx ty tw th coloured) := by
  intro st st' q hst hq
  obtain ⟨c, hcolour, hfit, rfl⟩ := hexSubrect_eq_ok.mp hst
  exact ⟨_, hexSubrect_eq_ok.mpr ⟨c, hcolour, hfit, rfl⟩, (hq.fill _ _ _ _ _).mono le_sup_left⟩

theorem hexSubrects_keepsAgreement (coloured : Bool) (n : Nat) :
    KeepsAgreement A A (hexSubrects f bs tx ty tw th coloured n) := by
  induction n with
  | zero =>
    rintro st _ q ⟨⟩ hq
    exact ⟨q, rfl, hq⟩
  | succ n ih =>
    intro st st' q hst hq
    obtain ⟨a, hfirst, hrest⟩ := except_bind_eq_ok.mp hst
    obtain ⟨qa, hfirst', hqa⟩ := hexSubrect_keepsAgreement f bs tx ty tw th coloured hfirst hq
    obtain ⟨q', hrest', hq'⟩ := ih hrest hqa
    exact ⟨q', except_bind_eq_ok.mpr ⟨_, hfirst', hrest'⟩, hq'⟩

theorem hexAnySubrects_keepsAgreement (any coloured : Bool) :
    KeepsAgreement A A (hexAnySubrects f bs tx ty tw th any coloured) := by
  cases any with
  | false =>
    rintro st _ q ⟨⟩ hq
    exact ⟨q, rfl, hq⟩
  | true =>
    intro st st' q hst hq
    obtain ⟨_, hneed, hsubs⟩ := except_bind_eq_ok.mp hst
    obtain ⟨q', hsubs', hq'⟩ := hexSubrects_keepsAgreement f bs tx ty tw th coloured _ hsubs hq
    exact ⟨q', except_bind_eq_ok.mpr ⟨_, hneed, hsubs'⟩, hq'⟩

/-- R214: the fill with the background assigns every pixel of the tile. -/
theorem hexFilledTile_keepsAgreement (flags : Byte) :
    KeepsAgreement A (A ⊔ area tx ty tw th) (hexFilledTile f bs tx ty tw th flags) := by
  intro st st' q hst hq
  obtain ⟨a, hbg, b, hfg, hsubs⟩ := hexFilledTile_eq_ok.mp hst
  obtain ⟨qa, hbg', hqa⟩ := hexBackground_keepsAgreement f bs _ hbg hq
  obtain ⟨qb, hfg', hqb⟩ := hexForeground_keepsAgreement f bs _ hfg (hqa.fill tx ty tw th a.bg)
  obtain ⟨q', hsubs', hq'⟩ := hexAnySubrects_keepsAgreement f bs tx ty tw th _ _ hsubs hqb
  exact ⟨q', hexFilledTile_eq_ok.mpr ⟨_, hbg', _, hfg', hsubs'⟩, hq'⟩

/-- R213: a RAW tile assigns every pixel of the tile. -/
theorem hexRawTile_keepsAgreement :
    KeepsAgreement A (A ⊔ area tx ty tw th) (hexRawTile f bs tx ty tw th) := by
  intro st st' q hst hq
  obtain ⟨hfit, rfl⟩ := hexRawTile_eq_ok.mp hst
  refine ⟨_, hexRawTile_eq_ok.mpr ⟨hfit, rfl⟩, fun col row hin => ?_⟩
  by_cases harea : area tx ty tw th col row
  · exact (if_pos harea).trans (if_pos harea).symm
  · exact (if_neg harea).trans ((hq col row (hin.resolve_right harea)).trans (if_neg harea).symm)

theorem hexTile_keepsAgreement (w h : Nat) (origin : Nat × Nat) :
    KeepsAgreement A (A ⊔ tileArea w h origin) (fun st => hexTile f bs w h st origin) := by
  intro st st' q hst hq
  obtain ⟨hneed, hkind⟩ := hexTile_eq_ok.mp hst
  split at hkind
  next hraw =>
    obtain ⟨q', hraw', hq'⟩ := hexRawTile_keepsAgreement f bs _ _ _ _ hkind hq
    exact ⟨q', hexTile_eq_ok.mpr ⟨hneed, (if_pos hraw).trans hraw'⟩, hq'⟩
  next hraw =>
    obtain ⟨q', hfilled', hq'⟩ := hexFilledTile_keepsAgreement f bs _ _ _ _ _ hkind hq
    exact ⟨q', hexTile_eq_ok.mpr ⟨hneed, (if_neg hraw).trans hfilled'⟩, hq'⟩

/-- R219: the tile loop assigns every pixel of its tiles. -/
theorem foldlM_hexTile_keepsAgreement (w h : Nat) (origins : List (Nat × Nat)) :
    KeepsAgreement A (A ⊔ fun col row => ∃ o ∈ origins, tileArea w h o col row)
      (origins.foldlM (hexTile f bs w h)) := by
  induction origins generalizing A with
  | nil =>
    rintro st _ q ⟨⟩ hq
    refine ⟨q, rfl, hq.mono fun col row hin => hin.resolve_right ?_⟩
    rintro ⟨o, ho, -⟩
    exact List.not_mem_nil ho
  | cons o os ih =>
    intro st st' q hst hq
    obtain ⟨a, htile, hrest⟩ := except_bind_eq_ok.mp (List.foldlM_cons.symm.trans hst)
    obtain ⟨qa, htile', hqa⟩ := hexTile_keepsAgreement f bs w h o htile hq
    obtain ⟨q', hrest', hq'⟩ := ih hrest hqa
    refine ⟨q', List.foldlM_cons.trans (except_bind_eq_ok.mpr ⟨_, htile', hrest'⟩), hq'.mono ?_⟩
    rintro col row (hA | ⟨p, hp, hin⟩)
    · exact .inl (.inl hA)
    · rcases List.mem_cons.mp hp with rfl | hp
      · exact .inl (.inr hin)
      · exact .inr ⟨p, hp, hin⟩

end

/-! ## The whole rectangle -/

/-- R210: the tiles cover the rectangle. -/
theorem exists_tileArea {w h col row : Nat} (hcol : col < w) (hrow : row < h) :
    ∃ o ∈ tileOrigins w h, tileArea w h o col row := by
  refine ⟨(16 * (col / 16), 16 * (row / 16)), ?_, ?_⟩
  · simp only [tileOrigins, List.mem_flatMap, List.mem_map, List.mem_range]
    exact ⟨row / 16, by omega, col / 16, by omega, rfl⟩
  · simp only [tileArea, area, tileExtent]
    omega

/-- A decoding over one array goes as well over any other, and leaves the same pixels in the rectangle. -/
theorem foldlM_hexTile_over {f : PixelFormat} {bs : List Byte} {w h : Nat} {st st' : HexState}
    (hst : (tileOrigins w h).foldlM (hexTile f bs w h) st = .ok st') (q : Canvas) :
    ∃ q', (tileOrigins w h).foldlM (hexTile f bs w h) { st with px := q } = .ok { st' with px := q' } ∧
      ∀ col < w, ∀ row < h, q' col row = st'.px col row := by
  have hnowhere : st.px.AgreeOn ⊥ q := fun _ _ => False.elim
  obtain ⟨q', hq', hagree⟩ := foldlM_hexTile_keepsAgreement f bs w h _ hst hnowhere
  exact ⟨q', hq', fun col hcol row hrow => hagree col row (.inr (exists_tileArea hcol hrow))⟩

/-- Settles O58: the second decoding is the first one over another array, and DEC.HEXTILE runs over one more. -/
theorem hextileAssignsEveryPixel : Obligations.HextileAssignsEveryPixel := by
  refine ⟨?_, ?_⟩
  · rintro f bs w h st st' ⟨_, _, _, q⟩ u' rfl rfl rfl hst hu col hcol row hrow
    obtain ⟨q', hq', hsame⟩ := foldlM_hexTile_over hst q
    rw [← Except.ok.inj (hq'.symm.trans hu)]
    exact hsame col hcol row hrow
  · intro s px st' hp h hin hout hst
    rw [hexTiles, List.take_length] at hst
    obtain ⟨q', hq', hsame⟩ := foldlM_hexTile_over hst fun _ _ => s.params.hxInitBg
    have hdecode : decodeHextile (s.formatWith (bytesPerPixel s)) s.rectWidth s.rectHeight s.params.hxInitBg
        s.params.hxInitFg s.payload = .ok q' := except_bind_eq_ok.mpr ⟨_, hq', rfl⟩
    obtain ⟨t, ht, hwrote, hpix⟩ := decHextile_commitsCanvas h hin hout hp hdecode
    refine ⟨t, ht, hwrote, fun row hrow col hcol => ?_⟩
    rw [hpix row hrow col hcol]
    exact hsame col hcol row hrow

end Sys2Proof.Machine
end

section
/-! PROOFS. A tile of DEC.HEXTILE as its guarded reads and the tile-loop state behind them (R211 to R217), with the
statement about its running colours. -/

namespace Sys2Proof.Machine

open Sys2Proof.Claims

/-! ## Guarded reads in order -/

section
variable {α β : Type} {bs : List Byte} {reads reads' : List (Nat × Nat)}

/-- R217: `a` behind a list of guarded reads, or the error of the first of them that does not fit. -/
def afterReads (bs : List Byte) (reads : List (Nat × Nat)) (a : α) : Except CmdError α :=
  match firstShort bs reads with
  | some r => .error ⟨.protocol, BitVec.ofNat 32 r.1⟩
  | none => .ok a

theorem firstShort_eq_none : firstShort bs reads = none ↔ ∀ r ∈ reads, r.1 + r.2 ≤ bs.length := by
  simp [firstShort]

theorem firstShort_cons_of_short {r : Nat × Nat} (hr : bs.length < r.1 + r.2) :
    firstShort bs (r :: reads) = some r := List.find?_cons_of_pos (decide_eq_true hr)

theorem firstShort_cons_of_fit {r : Nat × Nat} (hr : r.1 + r.2 ≤ bs.length) :
    firstShort bs (r :: reads) = firstShort bs reads := List.find?_cons_of_neg (by simpa using hr)

theorem firstShort_append : firstShort bs (reads ++ reads') = (firstShort bs reads).or (firstShort bs reads') :=
  List.find?_append

theorem afterReads_of_short {r : Nat × Nat} (h : firstShort bs reads = some r) (a : α) :
    afterReads bs reads a = .error ⟨.protocol, BitVec.ofNat 32 r.1⟩ := by rw [afterReads, h]

theorem afterReads_of_fit (h : firstShort bs reads = none) (a : α) : afterReads bs reads a = .ok a := by
  rw [afterReads, h]

theorem afterReads_eq_ok {a b : α} : afterReads bs reads a = .ok b ↔ firstShort bs reads = none ∧ b = a := by
  cases h : firstShort bs reads with
  | some r => simp [afterReads_of_short h]
  | none => simp [afterReads_of_fit h, eq_comm]

/-- R181: `need` is one guarded read. -/
theorem need_eq_afterReads (bs : List Byte) (cur n : Nat) : need bs cur n = afterReads bs [(cur, n)] () := by
  rcases Nat.lt_or_ge bs.length (cur + n) with hlen | hlen
  · rw [afterReads_of_short (firstShort_cons_of_short hlen)]
    exact need_eq_error.mpr ⟨hlen, rfl⟩
  · rw [afterReads_of_fit (firstShort_cons_of_fit hlen)]
    exact need_eq_ok.mpr hlen

/-- What follows a list of reads reads behind them. -/
theorem afterReads_bind {a : α} {b : β} {g : α → Except CmdError β} (hg : g a = afterReads bs reads' b) :
    (afterReads bs reads a >>= g) = afterReads bs (reads ++ reads') b := by
  cases h : firstShort bs reads with
  | some r =>
    rw [afterReads_of_short h, afterReads_of_short (r := r) (by rw [firstShort_append, h, Option.some_or])]
    rfl
  | none =>
    rw [afterReads_of_fit h, afterReads, firstShort_append, h, Option.none_or]
    exact hg

end

/-! ## What the parts of a tile read and leave -/

section
variable (f : PixelFormat) (bs : List Byte)

theorem readPix_eq_afterReads (cur : Nat) :
    readPix f bs cur = afterReads bs [(cur, f.bpp)] (pixAt f bs cur, cur + f.bpp) := by
  rw [readPix, need_eq_afterReads]
  exact afterReads_bind (reads' := []) rfl

/-- R214. -/
theorem hexBackground_eq_afterReads (specified : Bool) (st : HexState) :
    hexBackground f bs specified st = afterReads bs (if specified then [(st.cur, f.bpp)] else [])
      { st with
        bg := if specified then pixAt f bs st.cur else st.bg
        cur := behind specified st.cur f.bpp } := by
  cases specified with
  | false => rfl
  | true => exact (congrArg (· >>= _) (readPix_eq_afterReads f bs st.cur)).trans (afterReads_bind (reads' := []) rfl)

/-- R214. -/
theorem hexForeground_eq_afterReads (specified : Bool) (st : HexState) :
    hexForeground f bs specified st = afterReads bs (if specified then [(st.cur, f.bpp)] else [])
      { st with
        fg := if specified then pixAt f bs st.cur else st.fg
        cur := behind specified st.cur f.bpp } := by
  cases specified with
  | false => rfl
  | true => exact (congrArg (· >>= _) (readPix_eq_afterReads f bs st.cur)).trans (afterReads_bind (reads' := []) rfl)

/-- R215. -/
theorem hexColour_eq_afterReads (coloured : Bool) (st : HexState) :
    hexColour f bs coloured st = afterReads bs (if coloured then [(st.cur, f.bpp)] else [])
      (if coloured then pixAt f bs st.cur else st.fg, behind coloured st.cur f.bpp) := by
  cases coloured with
  | false => rfl
  | true => exact readPix_eq_afterReads f bs st.cur

variable (tx ty tw th : Nat)

/-- The pixels behind the subrectangle whose `xy` byte stands at `o`, in the colour `colour`, clipped to the tile
(R215, R216). -/
def paintSubrect (o : Nat) (colour : Rgba) (px : Canvas) : Canvas :=
  px.fill (tx + (byteAt bs o).toNat / 16) (ty + (byteAt bs o).toNat % 16)
    (clipped ((byteAt bs o).toNat / 16) ((byteAt bs (o + 1)).toNat / 16 + 1) tw)
    (clipped ((byteAt bs o).toNat % 16) ((byteAt bs (o + 1)).toNat % 16 + 1) th) colour

theorem toNat_highNibble (b : Byte) : (b.extractLsb' 4 4).toNat = b.toNat / 16 := by
  have hlt := b.isLt
  rw [BitVec.extractLsb'_toNat, Nat.shiftRight_eq_div_pow]
  omega

theorem toNat_lowNibble (b : Byte) : (b.extractLsb' 0 4).toNat = b.toNat % 16 := by
  rw [BitVec.extractLsb'_toNat, Nat.shiftRight_zero]

theorem hexSubrect_eq_afterReads (coloured : Bool) (st : HexState) :
    hexSubrect f bs tx ty tw th coloured st =
      afterReads bs
        ((if coloured then [(st.cur, f.bpp)] else []) ++
          [(behind coloured st.cur f.bpp, 1), (behind coloured st.cur f.bpp + 1, 1)])
        { st with
          cur := behind coloured st.cur f.bpp + 2
          px := paintSubrect bs tx ty tw th (behind coloured st.cur f.bpp)
            (if coloured then pixAt f bs st.cur else st.fg) st.px } := by
  simp only [hexSubrect, hexColour_eq_afterReads, need_eq_afterReads, toNat_highNibble, toNat_lowNibble]
  exact afterReads_bind (afterReads_bind (reads := [_]) (afterReads_bind (reads := [_]) (reads' := []) rfl))

/-! ## The subrectangles of the tile with its flag byte at `c` -/

variable (c : Nat) (fg : Rgba)

/-- The guarded reads of subrectangle `q` (R215, R217). -/
def tileSubReads (q : Nat) : List (Nat × Nat) :=
  (if tileFlag bs c 4 then [(tileSubAt f bs c q, f.bpp)] else []) ++
    [(tileXyAt f bs c q, 1), (tileXyAt f bs c q + 1, 1)]

/-- The colour of subrectangle `q` under the foreground `fg` (R215). -/
def tileSubColour (q : Nat) : Rgba := if tileFlag bs c 4 then pixAt f bs (tileSubAt f bs c q) else fg

/-- The pixels behind the first `n` subrectangles, in wire order. -/
def paintSubrects (px : Canvas) : Nat → Canvas
  | 0 => px
  | n + 1 => paintSubrect bs tx ty tw th (tileXyAt f bs c n) (tileSubColour f bs c fg n) (paintSubrects px n)

theorem behind_eq_add (present : Bool) (a k : Nat) : behind present a k = a + if present then k else 0 := by
  cases present <;> rfl

/-- A subrectangle ends where the next one starts. -/
theorem tileXyAt_add_two (q : Nat) : tileXyAt f bs c q + 2 = tileSubAt f bs c (q + 1) := by
  simp only [tileXyAt, tileSubAt, behind_eq_add, Nat.succ_mul]
  omega

/-- The last subrectangle, as well as the first, may be split off. -/
theorem hexSubrects_succ (coloured : Bool) (n : Nat) (st : HexState) :
    hexSubrects f bs tx ty tw th coloured (n + 1) st =
      hexSubrects f bs tx ty tw th coloured n st >>= hexSubrect f bs tx ty tw th coloured := by
  induction n generalizing st with
  | zero => exact bind_pure (hexSubrect f bs tx ty tw th coloured st)
  | succ n ih =>
    calc hexSubrects f bs tx ty tw th coloured (n + 1 + 1) st
      _ = hexSubrect f bs tx ty tw th coloured st >>= hexSubrects f bs tx ty tw th coloured (n + 1) := rfl
      _ = hexSubrect f bs tx ty tw th coloured st >>= fun st' =>
            hexSubrects f bs tx ty tw th coloured n st' >>= hexSubrect f bs tx ty tw th coloured :=
          congrArg (_ >>= ·) (funext ih)
      _ = _ := (bind_assoc _ _ _).symm

/-- R215: the subrectangles of a tile, when the loop state stands behind its count. -/
theorem hexSubrects_eq_afterReads (n : Nat) {st : HexState} (hcur : st.cur = tileSubAt f bs c 0) :
    hexSubrects f bs tx ty tw th (tileFlag bs c 4) n st =
      afterReads bs ((List.range n).flatMap (tileSubReads f bs c))
        { st with cur := tileSubAt f bs c n, px := paintSubrects f bs tx ty tw th c st.fg st.px n } := by
  induction n with
  | zero => exact congrArg Except.ok (hcur ▸ rfl)
  | succ n ih =>
    rw [hexSubrects_succ, ih, List.range_succ, List.flatMap_append, List.flatMap_singleton, ← tileXyAt_add_two]
    exact afterReads_bind (hexSubrect_eq_afterReads f bs tx ty tw th _ _)

/-! ## A whole tile -/

/-- The number of subrectangles of a tile, which is 0 without ANY_SUBRECTS (R215). -/
def tilePaints : Nat := if tileFlag bs c 3 then tileCount f bs c else 0

/-- The offset behind a tile without RAW (R211). -/
def tileEnd : Nat := if tileFlag bs c 3 then tileSubAt f bs c (tileCount f bs c) else tileCountAt f bs c

variable (st : HexState)

/-- What a RAW tile leaves (R213). -/
def rawTileAfter : HexState where
  cur := st.cur + 1 + tw * th * f.bpp
  bg := st.bg
  fg := st.fg
  px col row :=
    if tx ≤ col ∧ col < tx + tw ∧ ty ≤ row ∧ row < ty + th then
      pixAt f bs (st.cur + 1 + ((row - ty) * tw + (col - tx)) * f.bpp)
    else st.px col row

/-- What a tile without RAW leaves (R214, R215). -/
def filledTileAfter : HexState where
  cur := tileEnd f bs st.cur
  bg := tileBg f bs st
  fg := tileFg f bs st
  px := paintSubrects f bs tx ty tw th st.cur (tileFg f bs st) (st.px.fill tx ty tw th (tileBg f bs st))
    (tilePaints f bs st.cur)

/-- What a tile leaves, by the RAW bit of its flag byte (R211). -/
def tileAfter (w h : Nat) (origin : Nat × Nat) : HexState :=
  if tileFlag bs st.cur 0 then
    rawTileAfter f bs origin.1 origin.2 (tileExtent w origin.1) (tileExtent h origin.2) st
  else filledTileAfter f bs origin.1 origin.2 (tileExtent w origin.1) (tileExtent h origin.2) st

theorem hexRawTile_eq_afterReads :
    hexRawTile f bs tx ty tw th { st with cur := st.cur + 1 } =
      afterReads bs [(st.cur + 1, tw * th * f.bpp)] (rawTileAfter f bs tx ty tw th st) := by
  rw [hexRawTile, need_eq_afterReads]
  exact afterReads_bind (reads' := []) rfl

/-- R215: the count and the subrectangles, when the loop state stands behind the colours of the tile. -/
theorem hexAnySubrects_eq_afterReads {st : HexState} (hcur : st.cur = tileCountAt f bs c) :
    hexAnySubrects f bs tx ty tw th (tileFlag bs c 3) (tileFlag bs c 4) st =
      afterReads bs
        (if tileFlag bs c 3 then
          (tileCountAt f bs c, 1) :: (List.range (tileCount f bs c)).flatMap (tileSubReads f bs c)
        else [])
        { st with
          cur := tileEnd f bs c
          px := paintSubrects f bs tx ty tw th c st.fg st.px (tilePaints f bs c) } := by
  unfold hexAnySubrects tileEnd tilePaints
  cases tileFlag bs c 3 with
  | false => exact congrArg Except.ok (hcur ▸ rfl)
  | true =>
    simp only [if_true, need_eq_afterReads, hcur]
    exact afterReads_bind (reads := [_])
      (hexSubrects_eq_afterReads f bs tx ty tw th c _ (by rw [tileSubAt, Nat.zero_mul, Nat.add_zero]))

theorem hexFilledTile_eq_afterReads :
    hexFilledTile f bs tx ty tw th (byteAt bs st.cur) { st with cur := st.cur + 1 } =
      afterReads bs
        ((if tileFlag bs st.cur 1 then [(st.cur + 1, f.bpp)] else []) ++
          (if tileFlag bs st.cur 2 then [(tileFgAt f bs st.cur, f.bpp)] else []) ++
          if tileFlag bs st.cur 3 then
            (tileCountAt f bs st.cur, 1) :: (List.range (tileCount f bs st.cur)).flatMap (tileSubReads f bs st.cur)
          else [])
        (filledTileAfter f bs tx ty tw th st) := by
  rw [hexFilledTile, List.append_assoc, hexBackground_eq_afterReads]
  refine afterReads_bind ?_
  rw [hexForeground_eq_afterReads]
  exact afterReads_bind (hexAnySubrects_eq_afterReads f bs tx ty tw th st.cur rfl)

/-- R217: a tile is its guarded reads in order, and behind them `tileAfter`. -/
theorem hexTile_eq_afterReads (w h : Nat) (origin : Nat × Nat) :
    hexTile f bs w h st origin =
      afterReads bs (tileReads f bs st.cur (tileExtent w origin.1 * tileExtent h origin.2))
        (tileAfter f bs st w h origin) := by
  rw [hexTile, need_eq_afterReads]
  refine afterReads_bind (reads := [_]) ?_
  unfold tileAfter
  cases hraw : tileFlag bs st.cur 0 with
  | true => exact (if_pos hraw).trans (hexRawTile_eq_afterReads f bs _ _ _ _ st)
  | false =>
    have hfilled : ¬(byteAt bs st.cur).getLsbD 0 = true := ne_true_of_eq_false hraw
    exact (if_neg hfilled).trans (hexFilledTile_eq_afterReads f bs _ _ _ _ st)

end

section
variable {f : PixelFormat} {bs : List Byte} {st st' : HexState} {w h : Nat} {origin : Nat × Nat}

theorem eq_tileAfter_of_hexTile (hst : hexTile f bs w h st origin = .ok st') : st' = tileAfter f bs st w h origin := by
  rw [hexTile_eq_afterReads] at hst
  exact (afterReads_eq_ok.mp hst).2

theorem tileAfter_of_raw (hraw : tileFlag bs st.cur 0 = true) : tileAfter f bs st w h origin =
    rawTileAfter f bs origin.1 origin.2 (tileExtent w origin.1) (tileExtent h origin.2) st := if_pos hraw

theorem tileAfter_of_not_raw (hraw : tileFlag bs st.cur 0 = false) : tileAfter f bs st w h origin =
    filledTileAfter f bs origin.1 origin.2 (tileExtent w origin.1) (tileExtent h origin.2) st :=
  if_neg (ne_true_of_eq_false hraw)

end

/-- Settles O56: the running colours are two fields of what a tile leaves. -/
theorem hextileRunningColours : Obligations.HextileRunningColours := by
  intro f bs w h st st' origin hst
  obtain rfl := eq_tileAfter_of_hexTile hst
  refine ⟨fun hraw => ?_, fun hraw => ?_⟩
  · rw [tileAfter_of_raw hraw]
    exact ⟨rfl, rfl⟩
  · rw [tileAfter_of_not_raw hraw]
    refine ⟨rfl, ?_⟩
    rw [← behind_eq_add]
    rfl

end Sys2Proof.Machine
end

section
/-! PROOFS. The pixels of a Hextile tile (R210, R213 to R216): what a subrectangle covers, what a tile leaves in its
area and outside it, and the tiles in raster order, with the statement that a tile stays inside its area. -/

namespace Sys2Proof.Machine

open Sys2Proof.Claims

/-! ## Painting subrectangles -/

section
variable {f : PixelFormat} {bs : List Byte} {tx ty tw th : Nat}

/-- R216: a subrectangle, clipped to the tile, lies within it. -/
theorem paintSubrect_outside {col row : Nat} (hout : ¬area tx ty tw th col row) (o : Nat) (colour : Rgba)
    (px : Canvas) : paintSubrect bs tx ty tw th o colour px col row = px col row := by
  refine Canvas.fill_outside fun hin => hout ?_
  unfold clipped at hin
  unfold area
  omega

/-- R215, R216: within the tile the clipped area of a subrectangle is what it covers. -/
theorem subrectArea_iff {i j : Nat} (hi : i < tw) (hj : j < th) (o : Nat) :
    area (tx + (byteAt bs o).toNat / 16) (ty + (byteAt bs o).toNat % 16)
        (clipped ((byteAt bs o).toNat / 16) ((byteAt bs (o + 1)).toNat / 16 + 1) tw)
        (clipped ((byteAt bs o).toNat % 16) ((byteAt bs (o + 1)).toNat % 16 + 1) th) (tx + i) (ty + j) ↔
      TileCovers bs o i j := by
  simp only [area, TileCovers, Nat.add_assoc tx, Nat.add_assoc ty, Nat.add_le_add_iff_left, Nat.add_lt_add_iff_left,
    lt_add_clipped_iff hi, lt_add_clipped_iff hj]

theorem paintSubrect_of_covers {i j o : Nat} (hi : i < tw) (hj : j < th) (hcov : TileCovers bs o i j) (colour : Rgba)
    (px : Canvas) : paintSubrect bs tx ty tw th o colour px (tx + i) (ty + j) = colour :=
  Canvas.fill_inside ((subrectArea_iff hi hj o).mpr hcov)

theorem paintSubrect_of_not_covers {i j o : Nat} (hi : i < tw) (hj : j < th) (hcov : ¬TileCovers bs o i j)
    (colour : Rgba) (px : Canvas) :
    paintSubrect bs tx ty tw th o colour px (tx + i) (ty + j) = px (tx + i) (ty + j) :=
  Canvas.fill_outside (mt (subrectArea_iff hi hj o).mp hcov)

variable {c : Nat} {fg : Rgba} {px : Canvas} {n : Nat}

theorem paintSubrects_outside {col row : Nat} (hout : ¬area tx ty tw th col row) :
    paintSubrects f bs tx ty tw th c fg px n col row = px col row := by
  induction n with
  | zero => rfl
  | succ n ih => exact (paintSubrect_outside hout _ _ _).trans ih

variable {i j : Nat} (hi : i < tw) (hj : j < th)
include hi hj

theorem paintSubrects_of_uncovered (hnone : ∀ q < n, ¬TileCovers bs (tileXyAt f bs c q) i j) :
    paintSubrects f bs tx ty tw th c fg px n (tx + i) (ty + j) = px (tx + i) (ty + j) := by
  induction n with
  | zero => rfl
  | succ n ih =>
    exact (paintSubrect_of_not_covers hi hj (hnone n n.lt_succ_self) _ _).trans (ih fun q hq => hnone q (by omega))

/-- R215: later subrectangles paint over earlier ones. -/
theorem paintSubrects_of_last_cover {q : Nat} (hq : q < n) (hcov : TileCovers bs (tileXyAt f bs c q) i j)
    (hlast : ∀ p, q < p → p < n → ¬TileCovers bs (tileXyAt f bs c p) i j) :
    paintSubrects f bs tx ty tw th c fg px n (tx + i) (ty + j) = tileSubColour f bs c fg q := by
  induction n with
  | zero => exact absurd hq (Nat.not_lt_zero q)
  | succ n ih =>
    rcases Nat.lt_succ_iff_lt_or_eq.mp hq with hlt | rfl
    · exact (paintSubrect_of_not_covers hi hj (hlast n hlt n.lt_succ_self) _ _).trans
        (ih hlt fun p hqp hp => hlast p hqp (by omega))
    · exact paintSubrect_of_covers hi hj hcov _ _

/-- R215: without colours of their own all subrectangles are in the foreground. -/
theorem paintSubrects_of_uncoloured (hplain : tileFlag bs c 4 = false)
    (hcov : ∃ q < n, TileCovers bs (tileXyAt f bs c q) i j) :
    paintSubrects f bs tx ty tw th c fg px n (tx + i) (ty + j) = fg := by
  induction n with
  | zero =>
    obtain ⟨q, hq, -⟩ := hcov
    exact absurd hq (Nat.not_lt_zero q)
  | succ n ih =>
    by_cases hn : TileCovers bs (tileXyAt f bs c n) i j
    · exact (paintSubrect_of_covers hi hj hn _ _).trans (if_neg (ne_true_of_eq_false hplain))
    · obtain ⟨q, hq, hqcov⟩ := hcov
      have hqn : q ≠ n := fun heq => hn (heq ▸ hqcov)
      exact (paintSubrect_of_not_covers hi hj hn _ _).trans (ih ⟨q, by omega, hqcov⟩)

end

/-! ## The area of a tile -/

section
variable {f : PixelFormat} {bs : List Byte} {tx ty tw th : Nat} {st : HexState}

theorem rawTileAfter_outside {col row : Nat} (hout : ¬area tx ty tw th col row) :
    (rawTileAfter f bs tx ty tw th st).px col row = st.px col row := if_neg hout

theorem filledTileAfter_outside {col row : Nat} (hout : ¬area tx ty tw th col row) :
    (filledTileAfter f bs tx ty tw th st).px col row = st.px col row :=
  (paintSubrects_outside hout).trans (Canvas.fill_outside hout)

variable {i j : Nat} (hi : i < tw) (hj : j < th)
include hi hj

theorem area_inside : area tx ty tw th (tx + i) (ty + j) := by
  unfold area
  omega

/-- R213: row-major within the tile. -/
theorem rawTileAfter_inside : (rawTileAfter f bs tx ty tw th st).px (tx + i) (ty + j) =
    pixAt f bs (st.cur + 1 + (j * tw + i) * f.bpp) := by
  refine (if_pos (area_inside hi hj)).trans ?_
  rw [Nat.add_sub_cancel_left, Nat.add_sub_cancel_left]

theorem filledTileAfter_of_uncovered
    (hnone : ∀ q < tilePaints f bs st.cur, ¬TileCovers bs (tileXyAt f bs st.cur q) i j) :
    (filledTileAfter f bs tx ty tw th st).px (tx + i) (ty + j) = tileBg f bs st :=
  (paintSubrects_of_uncovered hi hj hnone).trans (Canvas.fill_inside (area_inside hi hj))

end

/-! ## The tiles in raster order -/

/-- Rows of `c` elements, one row after another: element `k` stands in row `k / c` at place `k % c`. -/
theorem flatMap_range_map_range {α : Type} (g : Nat → Nat → α) (c r : Nat) :
    ((List.range r).flatMap fun j => (List.range c).map fun i => g i j) =
      (List.range (c * r)).map fun k => g (k % c) (k / c) := by
  induction r with
  | zero => simp
  | succ r ih =>
    have hrow (i : Nat) (hi : i ∈ List.range c) : g i r = g ((c * r + i) % c) ((c * r + i) / c) := by
      have hlt := List.mem_range.mp hi
      rw [Nat.mul_add_mod, Nat.mod_eq_of_lt hlt, Nat.mul_add_div (by omega), Nat.div_eq_of_lt hlt, Nat.add_zero]
    rw [List.range_succ, List.flatMap_append, ih, List.flatMap_singleton, Nat.mul_succ, List.range_add,
      List.map_append, List.map_map, List.map_congr_left hrow]
    rfl

/-- R210: tile `k` is in row `k / ceil(W/16)` of the tiles, at place `k mod ceil(W/16)`. -/
theorem tileOrigins_eq_map (w h : Nat) : tileOrigins w h =
    (List.range ((w + 15) / 16 * ((h + 15) / 16))).map fun k =>
      (16 * (k % ((w + 15) / 16)), 16 * (k / ((w + 15) / 16))) :=
  flatMap_range_map_range (fun i j => (16 * i, 16 * j)) _ _

@[simp] theorem tileOrigins_length (w h : Nat) : (tileOrigins w h).length = (w + 15) / 16 * ((h + 15) / 16) := by
  simp [tileOrigins_eq_map]

/-- Settles O57: the tiles row by row; and both kinds of tile keep what lies outside their area. -/
theorem hextileTileStaysInside : Obligations.HextileTileStaysInside := by
  refine ⟨fun w h => ⟨tileOrigins_length w h, fun k hk => ?_⟩, fun f bs w h st st' tx ty hst col row hout => ?_⟩
  · rw [tileOrigins_eq_map, List.getElem?_map, List.getElem?_range hk]
    rfl
  · obtain rfl := eq_tileAfter_of_hexTile hst
    cases hraw : tileFlag bs st.cur 0 with
    | true => rw [tileAfter_of_raw hraw, rawTileAfter_outside hout]
    | false => rw [tileAfter_of_not_raw hraw, filledTileAfter_outside hout]

end Sys2Proof.Machine
end

section
/-! PROOFS. Hextile tiles whose bytes are present (R211 to R218), wherever they stand, and the rectangles that such
tiles make up, with the statements about RAW tiles, unflagged tiles and subrectangles. -/

namespace Sys2Proof.Machine

open Sys2Proof.Claims

/-! ## The guarded reads end where the tile ends -/

section
variable {f : PixelFormat} {bs : List Byte} {c : Nat}

theorem le_behind (present : Bool) (a k : Nat) : a ≤ behind present a k := by
  rw [behind_eq_add]
  omega

/-- An optional read ends where the next one starts. -/
theorem add_le_behind {present : Bool} {a k : Nat} {r : Nat × Nat}
    (hr : r ∈ if present then [(a, k)] else []) : r.1 + r.2 ≤ behind present a k := by
  cases present with
  | false => exact absurd hr List.not_mem_nil
  | true => exact (List.mem_singleton.mp hr ▸ le_rfl)

theorem tileSubAt_mono {q n : Nat} (hqn : q ≤ n) : tileSubAt f bs c q ≤ tileSubAt f bs c n :=
  Nat.add_le_add_left (Nat.mul_le_mul_right _ hqn) _

theorem tileSubReads_le {q : Nat} {r : Nat × Nat} (hr : r ∈ tileSubReads f bs c q) :
    r.1 + r.2 ≤ tileSubAt f bs c (q + 1) := by
  rw [← tileXyAt_add_two]
  rcases List.mem_append.mp hr with hcolour | hbytes
  · exact (add_le_behind hcolour).trans (Nat.le_add_right _ 2)
  · simp only [List.mem_cons, List.not_mem_nil, or_false] at hbytes
    rcases hbytes with rfl | rfl <;> omega

theorem tileCountAt_le_tileEnd : tileCountAt f bs c ≤ tileEnd f bs c := by
  unfold tileEnd tileSubAt
  split <;> omega

/-- R215: the count and the subrectangles end at the end of the tile. -/
theorem tileCountReads_le {r : Nat × Nat}
    (hr : r ∈ if tileFlag bs c 3 then
      (tileCountAt f bs c, 1) :: (List.range (tileCount f bs c)).flatMap (tileSubReads f bs c) else []) :
    r.1 + r.2 ≤ tileEnd f bs c := by
  unfold tileEnd
  cases hany : tileFlag bs c 3 with
  | false => simp [hany] at hr
  | true =>
    rw [hany, if_pos rfl] at hr
    rw [if_pos rfl]
    rcases List.mem_cons.mp hr with rfl | hsub
    · exact Nat.le_add_right _ _
    · obtain ⟨q, hq, hrq⟩ := List.mem_flatMap.mp hsub
      exact (tileSubReads_le hrq).trans (tileSubAt_mono (List.mem_range.mp hq))

theorem tileReads_fit_of_raw {n : Nat} (hraw : tileFlag bs c 0 = true) (hlen : c + 1 + n * f.bpp ≤ bs.length) :
    firstShort bs (tileReads f bs c n) = none := by
  rw [tileReads, if_pos hraw, firstShort_cons_of_fit (by omega), firstShort_cons_of_fit hlen]
  rfl

theorem tileReads_fit_of_not_raw {n : Nat} (hraw : tileFlag bs c 0 = false) (hlen : tileEnd f bs c ≤ bs.length) :
    firstShort bs (tileReads f bs c n) = none := by
  have hbg : c + 1 ≤ tileFgAt f bs c := le_behind _ _ _
  have hfg : tileFgAt f bs c ≤ tileCountAt f bs c := le_behind _ _ _
  have hcount : tileCountAt f bs c ≤ tileEnd f bs c := tileCountAt_le_tileEnd
  rw [tileReads, if_neg (ne_true_of_eq_false hraw), firstShort_cons_of_fit (by omega), firstShort_eq_none]
  intro r hr
  rcases List.mem_append.mp hr with hcolours | hsubs
  · rcases List.mem_append.mp hcolours with hr | hr
    · have hle : r.1 + r.2 ≤ tileFgAt f bs c := add_le_behind hr
      omega
    · have hle : r.1 + r.2 ≤ tileCountAt f bs c := add_le_behind hr
      omega
  · exact (tileCountReads_le hsubs).trans hlen

end

/-! ## One tile, wherever it stands -/

section
variable {f : PixelFormat} {bs : List Byte} (w h : Nat) {st : HexState} (origin : Nat × Nat)

theorem hexTile_of_raw (hraw : tileFlag bs st.cur 0 = true)
    (hlen : st.cur + 1 + tileExtent w origin.1 * tileExtent h origin.2 * f.bpp ≤ bs.length) :
    hexTile f bs w h st origin =
      .ok (rawTileAfter f bs origin.1 origin.2 (tileExtent w origin.1) (tileExtent h origin.2) st) := by
  rw [hexTile_eq_afterReads, tileAfter_of_raw hraw]
  exact afterReads_of_fit (tileReads_fit_of_raw hraw hlen) _

theorem hexTile_of_not_raw (hraw : tileFlag bs st.cur 0 = false) (hlen : tileEnd f bs st.cur ≤ bs.length) :
    hexTile f bs w h st origin =
      .ok (filledTileAfter f bs origin.1 origin.2 (tileExtent w origin.1) (tileExtent h origin.2) st) := by
  rw [hexTile_eq_afterReads, tileAfter_of_not_raw hraw]
  exact afterReads_of_fit (tileReads_fit_of_not_raw hraw hlen) _

end

section
variable {f : PixelFormat} {bs : List Byte} {c : Nat}

theorem tileEnd_of_plain (hany : tileFlag bs c 3 = false) : tileEnd f bs c = tileCountAt f bs c :=
  if_neg (ne_true_of_eq_false hany)

theorem tileEnd_of_subrects (hany : tileFlag bs c 3 = true) :
    tileEnd f bs c = tileSubAt f bs c (tileCount f bs c) := if_pos hany

theorem tilePaints_of_plain (hany : tileFlag bs c 3 = false) : tilePaints f bs c = 0 :=
  if_neg (ne_true_of_eq_false hany)

theorem tilePaints_of_subrects (hany : tileFlag bs c 3 = true) : tilePaints f bs c = tileCount f bs c := if_pos hany

end

/-! ## A rectangle of one tile -/

theorem tileExtent_zero {n : Nat} (hn : n ≤ 16) : tileExtent n 0 = n := Nat.min_eq_right hn

/-- R210: up to 16 by 16 pixels are one tile. -/
theorem tileOrigins_of_le {w h : Nat} (hw0 : 0 < w) (hw : w ≤ 16) (hh0 : 0 < h) (hh : h ≤ 16) :
    tileOrigins w h = [(0, 0)] := by
  have hcols : (w + 15) / 16 = 1 := by omega
  have hrows : (h + 15) / 16 = 1 := by omega
  rw [tileOrigins_eq_map, hcols, hrows]
  rfl

theorem byteAt_payload {s : State} {a : Nat} (ha : a < s.inLen.toNat) : byteAt s.payload a = s.bufByte .inp a := by
  simp [byteAt, State.payload, State.bufBytes, State.bufByte, ha]

theorem toNat_byteAt_payload {s : State} {a : Nat} (ha : a < s.inLen.toNat) :
    (byteAt s.payload a).toNat = inByte s a := by rw [byteAt_payload ha, inByte]

theorem tileFlag_payload {s : State} {a : Nat} (ha : a < s.inLen.toNat) (i : Nat) :
    tileFlag s.payload a i = (s.bufByte .inp a).getLsbD i := by rw [tileFlag, byteAt_payload ha]

theorem tileCovers_payload {s : State} {o : Nat} (ho : o + 2 ≤ s.inLen.toNat) (col row : Nat) :
    TileCovers s.payload o col row ↔ HexCovers s o col row := by
  rw [TileCovers, toNat_byteAt_payload (by omega), toNat_byteAt_payload (by omega)]
  rfl

@[simp] theorem formatWith_bpp (s : State) (bpp : Nat) : (s.formatWith bpp).bpp = bpp := rfl

/-- R212: the loop state at the first tile. -/
def firstTile (s : State) : HexState := hexStart s fun _ _ => s.params.hxInitBg

@[simp] theorem firstTile_cur (s : State) : (firstTile s).cur = 0 := rfl

section
variable {s : State} (hp : s.params.wf = true) (h : ¬IllegalFormat s) (hin : s.inLen.toNat ≤ s.params.inSize)
  (hout : s.rectWidth * s.rectHeight * 4 ≤ s.params.outSize)
include hp h hin hout

/-- R219: the pixels that the tile loop leaves are committed. -/
theorem decHextile_commitsTiles {st : HexState}
    (hst : (tileOrigins s.rectWidth s.rectHeight).foldlM
      (hexTile (s.formatWith (bytesPerPixel s)) s.payload s.rectWidth s.rectHeight) (firstTile s) = .ok st) :
    CommitsCanvas s st.px (exec .decHextile s) :=
  decHextile_commitsCanvas h hin hout hp (except_bind_eq_ok.mpr ⟨st, hst, rfl⟩)

variable (hw0 : 0 < s.rectWidth) (hw : s.rectWidth ≤ 16) (hh0 : 0 < s.rectHeight) (hh : s.rectHeight ≤ 16)
include hw0 hw hh0 hh

/-- R210, R219: in a rectangle of one tile those are the pixels that this tile leaves. -/
theorem decHextile_commitsTile {st : HexState}
    (hst : hexTile (s.formatWith (bytesPerPixel s)) s.payload s.rectWidth s.rectHeight (firstTile s) (0, 0) = .ok st) :
    CommitsCanvas s st.px (exec .decHextile s) := by
  refine decHextile_commitsTiles hp h hin hout ?_
  rw [tileOrigins_of_le hw0 hw hh0 hh]
  exact except_bind_eq_ok.mpr ⟨st, hst, rfl⟩

end

/-! ## RAW tiles -/

theorem hexTile_raw_pixels (f : PixelFormat) (bs : List Byte) (w h : Nat) (st : HexState) (tx ty : Nat)
    (hraw : tileFlag bs st.cur 0 = true)
    (hlen : st.cur + 1 + tileExtent w tx * tileExtent h ty * f.bpp ≤ bs.length) :
    ∃ st', hexTile f bs w h st (tx, ty) = .ok st' ∧
      TileLeaves st' (st.cur + 1 + tileExtent w tx * tileExtent h ty * f.bpp) st.bg st.fg ∧
      ∀ i < tileExtent w tx, ∀ j < tileExtent h ty,
        st'.px (tx + i) (ty + j) = pixAt f bs (st.cur + 1 + (j * tileExtent w tx + i) * f.bpp) :=
  ⟨_, hexTile_of_raw w h (tx, ty) hraw hlen, ⟨rfl, rfl, rfl⟩, fun _ hi _ hj => rawTileAfter_inside hi hj⟩

/-- R213, R219: the pixels of a rectangle of one RAW tile, as those that the payload has behind its flag byte. -/
theorem decHextile_rawTile {s : State} (hp : s.params.wf = true) (h : ¬IllegalFormat s)
    (hin : s.inLen.toNat ≤ s.params.inSize) (hout : s.rectWidth * s.rectHeight * 4 ≤ s.params.outSize)
    (hw0 : 0 < s.rectWidth) (hw : s.rectWidth ≤ 16) (hh0 : 0 < s.rectHeight) (hh : s.rectHeight ≤ 16)
    (hraw : (s.bufByte .inp 0).getLsbD 0 = true)
    (hlen : 1 + s.rectWidth * s.rectHeight * bytesPerPixel s ≤ s.inLen.toNat) :
    ∃ t, exec .decHextile s = .next t ∧ WrotePixels s t (s.rectWidth * s.rectHeight) ∧
      ∀ row < s.rectHeight, ∀ col < s.rectWidth, outPixel t (row * s.rectWidth + col) =
        pixAt (s.formatWith (bytesPerPixel s)) s.payload (1 + (row * s.rectWidth + col) * bytesPerPixel s) := by
  have hflag : tileFlag s.payload 0 0 = true := (tileFlag_payload (by omega) 0).trans hraw
  obtain ⟨st, hst, -, hpix⟩ := hexTile_raw_pixels (s.formatWith (bytesPerPixel s)) s.payload s.rectWidth s.rectHeight
    (firstTile s) 0 0 hflag (by simpa [tileExtent_zero hw, tileExtent_zero hh] using hlen)
  obtain ⟨t, ht, hwrote, hcanvas⟩ := decHextile_commitsTile hp h hin hout hw0 hw hh0 hh hst
  simp only [tileExtent_zero hw, tileExtent_zero hh, Nat.zero_add, firstTile_cur, formatWith_bpp] at hpix
  exact ⟨t, ht, hwrote, fun row hrow col hcol => (hcanvas row hrow col hcol).trans (hpix col hcol row hrow)⟩

/-- Settles O51: the payload holds every pixel behind the flag byte. -/
theorem hextileRawTile : Obligations.HextileRawTile := by
  refine ⟨hexTile_raw_pixels, fun s hp h hin hout hw0 hw hh0 hh hraw hlen => ?_⟩
  obtain ⟨t, ht, hwrote, hpix⟩ := decHextile_rawTile hp h hin hout hw0 hw hh0 hh hraw hlen
  refine ⟨t, ht, hwrote, fun row hrow col hcol => ?_⟩
  have hfit := Nat.mul_le_mul_right (bytesPerPixel s) (row_mul_add_lt hcol hrow)
  rw [Nat.succ_mul] at hfit
  rw [hpix row hrow col hcol]
  exact isPixelAt_pixAt h (by omega)

/-! ## Tiles of the background -/

theorem hexTile_background_pixels (f : PixelFormat) (bs : List Byte) (w h : Nat) (st : HexState) (tx ty : Nat)
    (hraw : tileFlag bs st.cur 0 = false) (hany : tileFlag bs st.cur 3 = false)
    (hlen : tileCountAt f bs st.cur ≤ bs.length) :
    ∃ st', hexTile f bs w h st (tx, ty) = .ok st' ∧
      TileLeaves st' (tileCountAt f bs st.cur) (tileBg f bs st) (tileFg f bs st) ∧
      ∀ i < tileExtent w tx, ∀ j < tileExtent h ty, st'.px (tx + i) (ty + j) = tileBg f bs st := by
  have hend : tileEnd f bs st.cur = tileCountAt f bs st.cur := tileEnd_of_plain hany
  refine ⟨_, hexTile_of_not_raw w h (tx, ty) hraw (hend ▸ hlen), ⟨hend, rfl, rfl⟩, fun i hi j hj => ?_⟩
  refine filledTileAfter_of_uncovered hi hj fun q hq => ?_
  rw [tilePaints_of_plain hany] at hq
  exact absurd hq (Nat.not_lt_zero q)

theorem Canvas.fill_const (x y w h : Nat) (c : Rgba) : Canvas.fill (fun _ _ => c) x y w h c = fun _ _ => c := by
  funext col row
  exact ite_self c

section
variable {f : PixelFormat} {bs : List Byte} {w h k : Nat} {bg fg : Rgba}

/-- R218: with the flag byte 0 a tile reads nothing else, and keeps the background on an array that holds it. -/
theorem hexTile_of_zero (hk : k < bs.length) (hzero : byteAt bs k = 0x00#8) (origin : Nat × Nat) :
    hexTile f bs w h ⟨k, bg, fg, fun _ _ => bg⟩ origin = .ok ⟨k + 1, bg, fg, fun _ _ => bg⟩ := by
  have hflag (i : Nat) : tileFlag bs k i = false := by rw [tileFlag, hzero, BitVec.getLsbD_zero]
  have hend : tileEnd f bs k = k + 1 := by simp [tileEnd, tileCountAt, tileFgAt, behind, hflag]
  rw [hexTile_of_not_raw w h origin (hflag 0) (hend ▸ hk)]
  simp [filledTileAfter, hend, tileBg, tileFg, hflag, tilePaints_of_plain, paintSubrects, Canvas.fill_const]

theorem foldlM_hexTile_of_zeros (origins : List (Nat × Nat)) (hlen : k + origins.length ≤ bs.length)
    (hzero : ∀ i < origins.length, byteAt bs (k + i) = 0x00#8) :
    origins.foldlM (hexTile f bs w h) ⟨k, bg, fg, fun _ _ => bg⟩ =
      .ok ⟨k + origins.length, bg, fg, fun _ _ => bg⟩ := by
  induction origins generalizing k with
  | nil => rfl
  | cons o os ih =>
    rw [List.length_cons] at hlen hzero ⊢
    have hfirst : byteAt bs k = 0x00#8 := hzero 0 (by omega)
    rw [List.foldlM_cons, hexTile_of_zero (by omega) hfirst o, ← Nat.add_assoc, Nat.add_right_comm]
    refine ih (by omega) fun i hi => ?_
    rw [Nat.add_assoc, Nat.add_comm 1]
    exact hzero (i + 1) (by omega)

end

/-- A place in OUT below the number of pixels is that of a pixel of the rectangle. -/
theorem CommitsCanvas.outPixel_eq {s : State} {px : Canvas} {o : Host.Outcome State Fault Refusal}
    (hpx : CommitsCanvas s px o) : ∃ t, o = .next t ∧ WrotePixels s t (s.rectWidth * s.rectHeight) ∧
      ∀ k < s.rectWidth * s.rectHeight, outPixel t k = px (k % s.rectWidth) (k / s.rectWidth) := by
  obtain ⟨t, ht, hwrote, hcanvas⟩ := hpx
  refine ⟨t, ht, hwrote, fun k hk => ?_⟩
  have hpos : 0 < s.rectWidth := Nat.pos_of_mul_pos_right (Nat.zero_lt_of_lt hk)
  have hpix := hcanvas (k / s.rectWidth) (Nat.div_lt_of_lt_mul hk) (k % s.rectWidth) (Nat.mod_lt k hpos)
  rwa [Nat.div_add_mod'] at hpix

/-- Settles O53: every zero flag byte takes the tile loop one byte on and leaves the array as it was. -/
theorem hextileUnflaggedTilesAreBackground : Obligations.HextileUnflaggedTilesAreBackground := by
  refine ⟨hexTile_background_pixels, fun s hp h hin hout hlen hzero => ?_⟩
  have hloop := foldlM_hexTile_of_zeros (f := s.formatWith (bytesPerPixel s)) (bs := s.payload) (w := s.rectWidth)
    (h := s.rectHeight) (k := 0) (bg := s.params.hxInitBg) (fg := s.params.hxInitFg)
    (tileOrigins s.rectWidth s.rectHeight) (by rwa [tileOrigins_length, State.payload_length, Nat.zero_add])
    fun i hi => by
      rw [tileOrigins_length] at hi
      rw [Nat.zero_add, byteAt_payload (hi.trans_le hlen)]
      exact hzero i hi
  exact (decHextile_commitsTiles hp h hin hout hloop).outPixel_eq

/-! ## Tiles with subrectangles -/

theorem hexTile_foreground_pixels (f : PixelFormat) (bs : List Byte) (w h : Nat) (st : HexState) (tx ty : Nat)
    (hraw : tileFlag bs st.cur 0 = false) (hany : tileFlag bs st.cur 3 = true) (hplain : tileFlag bs st.cur 4 = false)
    (hlen : tileSubAt f bs st.cur (tileCount f bs st.cur) ≤ bs.length) :
    ∃ st', hexTile f bs w h st (tx, ty) = .ok st' ∧
      TileLeaves st' (tileSubAt f bs st.cur (tileCount f bs st.cur)) (tileBg f bs st) (tileFg f bs st) ∧
      ∀ i < tileExtent w tx, ∀ j < tileExtent h ty,
        ((∃ q < tileCount f bs st.cur, TileCovers bs (tileXyAt f bs st.cur q) i j) →
          st'.px (tx + i) (ty + j) = tileFg f bs st) ∧
        ((∀ q < tileCount f bs st.cur, ¬TileCovers bs (tileXyAt f bs st.cur q) i j) →
          st'.px (tx + i) (ty + j) = tileBg f bs st) := by
  have hend := tileEnd_of_subrects (f := f) hany
  rw [← tilePaints_of_subrects (f := f) hany] at hlen hend ⊢
  exact ⟨_, hexTile_of_not_raw w h (tx, ty) hraw (hend ▸ hlen), ⟨hend, rfl, rfl⟩, fun i hi j hj =>
    ⟨paintSubrects_of_uncoloured hi hj hplain, filledTileAfter_of_uncovered hi hj⟩⟩

theorem hexTile_coloured_pixels (f : PixelFormat) (bs : List Byte) (w h : Nat) (st : HexState) (tx ty : Nat)
    (hraw : tileFlag bs st.cur 0 = false) (hany : tileFlag bs st.cur 3 = true) (hcoloured : tileFlag bs st.cur 4 = true)
    (hlen : tileSubAt f bs st.cur (tileCount f bs st.cur) ≤ bs.length) :
    ∃ st', hexTile f bs w h st (tx, ty) = .ok st' ∧
      TileLeaves st' (tileSubAt f bs st.cur (tileCount f bs st.cur)) (tileBg f bs st) (tileFg f bs st) ∧
      ∀ i < tileExtent w tx, ∀ j < tileExtent h ty,
        (∀ q < tileCount f bs st.cur, TileCovers bs (tileXyAt f bs st.cur q) i j →
          (∀ p, q < p → p < tileCount f bs st.cur → ¬TileCovers bs (tileXyAt f bs st.cur p) i j) →
          st'.px (tx + i) (ty + j) = pixAt f bs (tileSubAt f bs st.cur q)) ∧
        ((∀ q < tileCount f bs st.cur, ¬TileCovers bs (tileXyAt f bs st.cur q) i j) →
          st'.px (tx + i) (ty + j) = tileBg f bs st) := by
  have hend := tileEnd_of_subrects (f := f) hany
  rw [← tilePaints_of_subrects (f := f) hany] at hlen hend ⊢
  exact ⟨_, hexTile_of_not_raw w h (tx, ty) hraw (hend ▸ hlen), ⟨hend, rfl, rfl⟩, fun i hi j hj =>
    ⟨fun _ hq hcov hlast => (paintSubrects_of_last_cover hi hj hq hcov hlast).trans (if_pos hcoloured),
      filledTileAfter_of_uncovered hi hj⟩⟩

section
variable {f : PixelFormat} {bs : List Byte}

/-- R211, R215: with both colours of the tile and no others, the subrectangles are the bytes behind the count. -/
theorem foregroundTile_layout (hflag : ∀ i, tileFlag bs 0 i = (0x0E#8).getLsbD i) :
    tileCountAt f bs 0 = 1 + 2 * f.bpp ∧ (∀ q, tileSubAt f bs 0 q = 2 + 2 * f.bpp + 2 * q) ∧
      ∀ q, tileXyAt f bs 0 q = 2 + 2 * f.bpp + 2 * q := by
  have hcountAt : tileCountAt f bs 0 = 1 + 2 * f.bpp := by
    simp [tileCountAt, tileFgAt, behind, hflag]
    omega
  have hsubAt (q : Nat) : tileSubAt f bs 0 q = 2 + 2 * f.bpp + 2 * q := by
    simp [tileSubAt, hcountAt, behind, hflag]
    omega
  exact ⟨hcountAt, hsubAt, fun q => by simp [tileXyAt, hsubAt, behind, hflag]⟩

/-- R211, R215: with a background and coloured subrectangles. -/
theorem colouredTile_layout (hflag : ∀ i, tileFlag bs 0 i = (0x1A#8).getLsbD i) :
    tileCountAt f bs 0 = 1 + f.bpp ∧ (∀ q, tileSubAt f bs 0 q = 2 + f.bpp + q * (f.bpp + 2)) ∧
      ∀ q, tileXyAt f bs 0 q = 2 + f.bpp + q * (f.bpp + 2) + f.bpp := by
  have hcountAt : tileCountAt f bs 0 = 1 + f.bpp := by simp [tileCountAt, tileFgAt, behind, hflag]
  have hsubAt (q : Nat) : tileSubAt f bs 0 q = 2 + f.bpp + q * (f.bpp + 2) := by
    simp [tileSubAt, hcountAt, behind, hflag, Nat.add_comm 2]
    omega
  exact ⟨hcountAt, hsubAt, fun q => by simp [tileXyAt, hsubAt, behind, hflag]⟩

end

/-- Settles O54: the layout of a tile with the flags 0x0E. -/
theorem hextileForegroundSubrectangles : Obligations.HextileForegroundSubrectangles := by
  refine ⟨hexTile_foreground_pixels, fun s hp h hin hout hw0 hw hh0 hh hflags hhead hlen => ?_⟩
  have hflag (i : Nat) : tileFlag s.payload 0 i = (0x0E#8).getLsbD i := by rw [tileFlag_payload (by omega), hflags]
  obtain ⟨hcountAt, hsubAt, hxyAt⟩ := foregroundTile_layout (f := s.formatWith (bytesPerPixel s)) hflag
  rw [formatWith_bpp] at hcountAt
  have hcount : tileCount (s.formatWith (bytesPerPixel s)) s.payload 0 = inByte s (1 + 2 * bytesPerPixel s) := by
    rw [tileCount, hcountAt, toNat_byteAt_payload (by omega)]
  have hbg : tileBg (s.formatWith (bytesPerPixel s)) s.payload (firstTile s) =
      pixAt (s.formatWith (bytesPerPixel s)) s.payload 1 := if_pos (hflag 1)
  have hfg : tileFg (s.formatWith (bytesPerPixel s)) s.payload (firstTile s) =
      pixAt (s.formatWith (bytesPerPixel s)) s.payload (1 + bytesPerPixel s) := by
    simp [tileFg, tileFgAt, behind, hflag]
  obtain ⟨st, hst, -, hpix⟩ := hexTile_foreground_pixels (s.formatWith (bytesPerPixel s)) s.payload s.rectWidth
    s.rectHeight (firstTile s) 0 0 (hflag 0) (hflag 3) (hflag 4) (by simpa [hcount, hsubAt] using hlen)
  obtain ⟨t, ht, hwrote, hcanvas⟩ := decHextile_commitsTile hp h hin hout hw0 hw hh0 hh hst
  simp only [tileExtent_zero hw, tileExtent_zero hh, Nat.zero_add, firstTile_cur, formatWith_bpp, hcount, hxyAt, hbg,
    hfg] at hpix
  have hcovers (q : Nat) (hq : q < inByte s (1 + 2 * bytesPerPixel s)) :=
    tileCovers_payload (s := s) (o := 2 + 2 * bytesPerPixel s + 2 * q) (by omega)
  refine ⟨t, ht, hwrote, fun row hrow col hcol => ?_⟩
  obtain ⟨hcovered, huncovered⟩ := hpix col hcol row hrow
  rw [hcanvas row hrow col hcol]
  refine ⟨fun ⟨q, hq, hcov⟩ => ?_, fun hnone => ?_⟩
  · rw [hcovered ⟨q, hq, (hcovers q hq col row).mpr hcov⟩]
    exact isPixelAt_pixAt h (by omega)
  · rw [huncovered fun q hq => mt (hcovers q hq col row).mp (hnone q hq)]
    exact isPixelAt_pixAt h (by omega)

/-- Settles O55: the layout of a tile with the flags 0x1A. -/
theorem hextileColouredSubrectangles : Obligations.HextileColouredSubrectangles := by
  refine ⟨hexTile_coloured_pixels, fun s hp h hin hout hw0 hw hh0 hh hflags hhead hlen => ?_⟩
  have hflag (i : Nat) : tileFlag s.payload 0 i = (0x1A#8).getLsbD i := by rw [tileFlag_payload (by omega), hflags]
  obtain ⟨hcountAt, hsubAt, hxyAt⟩ := colouredTile_layout (f := s.formatWith (bytesPerPixel s)) hflag
  rw [formatWith_bpp] at hcountAt
  have hcount : tileCount (s.formatWith (bytesPerPixel s)) s.payload 0 = inByte s (1 + bytesPerPixel s) := by
    rw [tileCount, hcountAt, toNat_byteAt_payload (by omega)]
  have hoffset (q : Nat) : tileSubAt (s.formatWith (bytesPerPixel s)) s.payload 0 q = hexOffset s q := hsubAt q
  have hoffsetXy (q : Nat) : tileXyAt (s.formatWith (bytesPerPixel s)) s.payload 0 q =
      hexOffset s q + bytesPerPixel s := hxyAt q
  have hbg : tileBg (s.formatWith (bytesPerPixel s)) s.payload (firstTile s) =
      pixAt (s.formatWith (bytesPerPixel s)) s.payload 1 := if_pos (hflag 1)
  obtain ⟨st, hst, -, hpix⟩ := hexTile_coloured_pixels (s.formatWith (bytesPerPixel s)) s.payload s.rectWidth
    s.rectHeight (firstTile s) 0 0 (hflag 0) (hflag 3) (hflag 4) (by simpa [hcount, hoffset] using hlen)
  obtain ⟨t, ht, hwrote, hcanvas⟩ := decHextile_commitsTile hp h hin hout hw0 hw hh0 hh hst
  simp only [tileExtent_zero hw, tileExtent_zero hh, Nat.zero_add, firstTile_cur, hcount, hoffset, hoffsetXy, hbg]
    at hpix
  have hfit (q : Nat) (hq : q < inByte s (1 + bytesPerPixel s)) :
      hexOffset s q + bytesPerPixel s + 2 ≤ s.inLen.toNat := by
    rw [← hoffsetXy, tileXyAt_add_two]
    exact (tileSubAt_mono hq).trans (hoffset _ ▸ hlen)
  have hcovers (q : Nat) (hq : q < inByte s (1 + bytesPerPixel s)) := tileCovers_payload (hfit q hq)
  refine ⟨t, ht, hwrote, fun row hrow col hcol => ?_⟩
  obtain ⟨hcovered, huncovered⟩ := hpix col hcol row hrow
  rw [hcanvas row hrow col hcol]
  refine ⟨fun q hq hcov hlast => ?_, fun hnone => ?_⟩
  · rw [hcovered q hq ((hcovers q hq col row).mpr hcov) fun p hqp hp =>
      mt (hcovers p hp col row).mp (hlast p hqp hp)]
    exact isPixelAt_pixAt h ((Nat.le_add_right _ 2).trans (hfit q hq))
  · rw [huncovered fun q hq => mt (hcovers q hq col row).mp (hnone q hq)]
    exact isPixelAt_pixAt h (by omega)

end Sys2Proof.Machine
end

section
/-! PROOFS. DEC.HEXTILE against DEC.RAW on one RAW tile (R221), and its errors (R217, R219, R243). -/

namespace Sys2Proof.Machine

open Sys2Proof.Claims

/-! ## One RAW tile is DEC.RAW -/

/-- R171: the bytes of OUT are those of its pixels. -/
theorem bufByte_out_of_outPixel {t u : State} {n i : Nat} (hpix : ∀ k < n, outPixel u k = outPixel t k)
    (hi : i < 4 * n) : u.bufByte .out i = t.bufByte .out i := by
  have hk := hpix (i / 4) (by omega)
  simp only [outPixel, Rgba.mk.injEq] at hk
  obtain ⟨hr, hg, hb, ha⟩ := hk
  obtain hmod | hmod | hmod | hmod : i % 4 = 0 ∨ i % 4 = 1 ∨ i % 4 = 2 ∨ i % 4 = 3 := by omega
  · rwa [show 4 * (i / 4) = i by omega] at hr
  · rwa [show 4 * (i / 4) + 1 = i by omega] at hg
  · rwa [show 4 * (i / 4) + 2 = i by omega] at hb
  · rwa [show 4 * (i / 4) + 3 = i by omega] at ha

/-- The payload of `h` is one byte and then that of `s`, pixel for pixel. -/
theorem pixAt_payload_succ {s h : State} {f : PixelFormat}
    (hbytes : ∀ i < s.inLen.toNat, h.bufByte .inp (i + 1) = s.bufByte .inp i)
    (hlen : h.inLen.toNat = s.inLen.toNat + 1) {a : Nat} (hfit : a + f.bpp ≤ s.inLen.toNat) :
    pixAt f h.payload (1 + a) = pixAt f s.payload a := by
  have hbyte (i : Nat) (hi : i ∈ List.range f.bpp) : h.bufByte .inp (1 + a + i) = s.bufByte .inp (a + i) := by
    have hlt := List.mem_range.mp hi
    rw [Nat.add_assoc, Nat.add_comm 1]
    exact hbytes _ (by omega)
  rw [pixAt, pixAt, slice_payload (by omega), slice_payload hfit, List.map_congr_left hbyte]

/-- The pixels of DEC.RAW, row-major (R184). -/
def rawCanvas (s : State) : Canvas := fun col row =>
  pixAt (s.formatWith (bytesPerPixel s)) s.payload ((row * s.rectWidth + col) * bytesPerPixel s)

theorem rawCanvas_fits {s : State} {col row : Nat}
    (hlen : s.rectWidth * s.rectHeight * bytesPerPixel s ≤ s.inLen.toNat) (hcol : col < s.rectWidth)
    (hrow : row < s.rectHeight) : (row * s.rectWidth + col) * bytesPerPixel s + bytesPerPixel s ≤ s.inLen.toNat := by
  rw [← Nat.succ_mul]
  exact (Nat.mul_le_mul_right _ (row_mul_add_lt hcol hrow)).trans hlen

section
variable {s : State} (hp : s.params.wf = true) (h : ¬IllegalFormat s) (hin : s.inLen.toNat ≤ s.params.inSize)
  (hout : s.rectWidth * s.rectHeight * 4 ≤ s.params.outSize)
include hp h hin hout

theorem decRaw_commitsRaw (hlen : s.rectWidth * s.rectHeight * bytesPerPixel s ≤ s.inLen.toNat) :
    CommitsCanvas s (rawCanvas s) (exec .decRaw s) :=
  decRaw_commitsCanvas h hin hout hp (decodeRaw_of_le (by rwa [State.payload_length]))

/-- R191, R221: DEC.HEXTILE commits the pixels behind the flag byte of a single RAW tile, also when there are none. -/
theorem decHextile_commitsRaw (hw : s.rectWidth ≤ 16) (hh : s.rectHeight ≤ 16)
    (hraw : (s.bufByte .inp 0).getLsbD 0 = true)
    (hlen : 1 + s.rectWidth * s.rectHeight * bytesPerPixel s ≤ s.inLen.toNat) {px : Canvas}
    (hpx : ∀ row < s.rectHeight, ∀ col < s.rectWidth,
      pixAt (s.formatWith (bytesPerPixel s)) s.payload (1 + (row * s.rectWidth + col) * bytesPerPixel s) = px col row) :
    CommitsCanvas s px (exec .decHextile s) := by
  by_cases hempty : s.rectWidth = 0 ∨ s.rectHeight = 0
  · obtain ⟨-, ⟨t, ht, hwrote⟩, -⟩ := emptyRectangles s hp h hin hempty
    exact ⟨t, ht, Nat.mul_eq_zero.mpr hempty ▸ hwrote, fun row hrow col hcol => by omega⟩
  · obtain ⟨t, ht, hwrote, hpix⟩ :=
      decHextile_rawTile hp h hin hout (by omega) hw (by omega) hh hraw hlen
    exact ⟨t, ht, hwrote, fun row hrow col hcol => (hpix row hrow col hcol).trans (hpx row hrow col hcol)⟩

end

/-- Settles O52: both commands commit the canvas of DEC.RAW. -/
theorem hextileSingleRawTileIsRaw : Obligations.HextileSingleRawTileIsRaw := by
  intro s h hp hparams hctrl hrmax hgmax hbmax hshift hrectW hrectH hw hh hinLen hin hout hlegal hlen hfirst hbytes
  have hwidth : h.rectWidth = s.rectWidth := by rw [State.rectWidth, State.rectWidth, hrectW]
  have hheight : h.rectHeight = s.rectHeight := by rw [State.rectHeight, State.rectHeight, hrectH]
  have hbpp : bytesPerPixel h = bytesPerPixel s := by rw [bytesPerPixel, bytesPerPixel, hctrl]
  have hformat : h.formatWith (bytesPerPixel h) = s.formatWith (bytesPerPixel s) := by
    simp [State.formatWith, hbpp, hctrl, hrmax, hgmax, hbmax, hshift]
  have hlegal' : ¬IllegalFormat h := by rwa [IllegalFormat, hctrl, hrmax, hgmax, hbmax, hshift]
  obtain ⟨t, ht, htwrote, htpix⟩ := (decRaw_commitsRaw hp hlegal (by omega) hout hlen).outPixel_eq
  have hextile : CommitsCanvas h (rawCanvas s) (exec .decHextile h) := by
    refine decHextile_commitsRaw (by rwa [hparams]) hlegal' (by rwa [hparams]) (by rwa [hparams, hwidth, hheight])
      (hwidth ▸ hw) (hheight ▸ hh) (by rw [hfirst]; rfl) (by rw [hwidth, hheight, hbpp]; omega) ?_
    intro row hrow col hcol
    rw [hformat, hwidth, hbpp]
    exact pixAt_payload_succ hbytes hinLen (rawCanvas_fits hlen (hwidth ▸ hcol) (hheight ▸ hrow))
  obtain ⟨u, hu, huwrote, hupix⟩ := hextile.outPixel_eq
  rw [hwidth, hheight] at huwrote hupix
  obtain ⟨-, -, hterr, -⟩ := htwrote.completed
  obtain ⟨-, -, huerr, -⟩ := huwrote.completed
  refine ⟨t, u, ht, hu, hterr, huerr, BitVec.eq_of_toNat_eq (huwrote.outLen.trans htwrote.outLen.symm), ?_⟩
  intro i hi
  rw [htwrote.outLen] at hi
  exact bufByte_out_of_outPixel (fun k hk => (hupix k hk).trans (htpix k hk).symm) hi

/-! ## The first read that does not fit -/

section
variable {s : State}

/-- The tiles before tile `k + 1` are those before tile `k`, and tile `k`. -/
theorem hexTiles_succ {k : Nat} {o : Nat × Nat} (ho : (tileOrigins s.rectWidth s.rectHeight)[k]? = some o)
    (st : HexState) : hexTiles s (k + 1) st = hexTiles s k st >>= fun st' =>
      hexTile (s.formatWith (bytesPerPixel s)) s.payload s.rectWidth s.rectHeight st' o := by
  rw [hexTiles, List.take_add_one, ho, List.foldlM_append]
  exact congrArg (_ >>= ·) (funext fun st' => bind_pure _)

/-- R219: the tile loop ends with the first error. -/
theorem foldlM_hexTile_of_error {k : Nat} {st : HexState} {e : CmdError} (hst : hexTiles s k st = .error e) :
    (tileOrigins s.rectWidth s.rectHeight).foldlM
      (hexTile (s.formatWith (bytesPerPixel s)) s.payload s.rectWidth s.rectHeight) st = .error e := by
  rw [← List.take_append_drop k (tileOrigins s.rectWidth s.rectHeight), List.foldlM_append]
  exact congrArg (· >>= _) hst

/-- R217: a tile with a read that does not fit ends the loop with the cursor of that read. -/
theorem hexTiles_of_shortTile {k tx ty : Nat} {r : Nat × Nat} (hshort : ShortTile s k tx ty r) :
    hexTiles s (k + 1) (firstTile s) = .error ⟨.protocol, BitVec.ofNat 32 r.1⟩ := by
  obtain ⟨ho, st, hst, hr⟩ := hshort
  rw [hexTiles_succ ho, firstTile, hst]
  exact (hexTile_eq_afterReads _ _ _ _ _ _).trans (afterReads_of_short hr _)

/-- With no such tile the loop goes on to its end. -/
theorem hexTiles_of_no_shortTile (hnone : ∀ k tx ty r, ¬ShortTile s k tx ty r) {k : Nat}
    (hk : k ≤ (tileOrigins s.rectWidth s.rectHeight).length) : ∃ st, hexTiles s k (firstTile s) = .ok st := by
  induction k with
  | zero => exact ⟨firstTile s, rfl⟩
  | succ k ih =>
    obtain ⟨st, hst⟩ := ih (by omega)
    have ho := List.getElem?_eq_getElem hk
    rw [hexTiles_succ ho, hst]
    cases hreads : firstShort s.payload (tileReads (s.formatWith (bytesPerPixel s)) s.payload st.cur
      (tileExtent s.rectWidth (tileOrigins s.rectWidth s.rectHeight)[k].1 *
        tileExtent s.rectHeight (tileOrigins s.rectWidth s.rectHeight)[k].2)) with
    | some r => exact absurd ⟨ho, st, hst, hreads⟩ (hnone k _ _ r)
    | none => exact ⟨_, (hexTile_eq_afterReads _ _ _ _ _ _).trans (afterReads_of_fit hreads _)⟩

theorem shortTile_zero (hw : 0 < s.rectWidth) (hh : 0 < s.rectHeight) {r : Nat × Nat}
    (hr : firstShort s.payload (tileReads (s.formatWith (bytesPerPixel s)) s.payload 0
      (tileExtent s.rectWidth 0 * tileExtent s.rectHeight 0)) = some r) : ShortTile s 0 0 0 r := by
  refine ⟨?_, firstTile s, rfl, hr⟩
  have hpos : 0 < (s.rectWidth + 15) / 16 * ((s.rectHeight + 15) / 16) := Nat.mul_pos (by omega) (by omega)
  rw [tileOrigins_eq_map, List.getElem?_map, List.getElem?_range hpos]
  simp

theorem decHextile_of_shortTile (h : ¬IllegalFormat s) (hin : s.inLen.toNat ≤ s.params.inSize)
    (hout : s.rectWidth * s.rectHeight * 4 ≤ s.params.outSize) {k tx ty : Nat} {r : Nat × Nat}
    (hshort : ShortTile s k tx ty r) :
    exec .decHextile s = .next (s.completeErr ⟨.protocol, BitVec.ofNat 32 r.1⟩) := by
  have hdecode : decodeHextile (s.formatWith (bytesPerPixel s)) s.rectWidth s.rectHeight s.params.hxInitBg
      s.params.hxInitFg s.payload = .error ⟨.protocol, BitVec.ofNat 32 r.1⟩ :=
    congrArg (· >>= _) (foldlM_hexTile_of_error (hexTiles_of_shortTile hshort))
  rw [exec_decHextile, decodeRect_of_legal h hin hout, hdecode]
  rfl

end

/-- Settles O59: a tile is its guarded reads, and the loop is its tiles. -/
theorem hextileTruncationIsAnError : Obligations.HextileTruncationIsAnError := by
  refine ⟨fun f bs w h st tx ty => ⟨fun r hr => ?_, fun hfit => ?_⟩, fun s h hin hout => ⟨?_, ?_, fun hw hh => ?_⟩⟩
  · exact (hexTile_eq_afterReads f bs st w h (tx, ty)).trans (afterReads_of_short hr _)
  · exact ⟨_, (hexTile_eq_afterReads f bs st w h (tx, ty)).trans (afterReads_of_fit hfit _)⟩
  · exact fun k tx ty r hshort => decHextile_of_shortTile h hin hout hshort
  · intro hp hnone
    obtain ⟨st, hst⟩ := hexTiles_of_no_shortTile hnone le_rfl
    obtain ⟨t, ht, hwrote, -⟩ := hextileAssignsEveryPixel.2 s _ st hp h hin hout hst
    exact ⟨t, ht, hwrote⟩
  · refine ⟨fun hzero => ?_, fun hpos hraw hlen => ?_⟩
    · have hflags : s.payload.length < 0 + 1 := by rw [State.payload_length, hzero]; decide
      exact decHextile_of_shortTile h hin hout (shortTile_zero hw hh (firstShort_cons_of_short hflags))
    · have hflag : tileFlag s.payload 0 0 = true := (tileFlag_payload hpos 0).trans hraw
      have hreads : firstShort s.payload (tileReads (s.formatWith (bytesPerPixel s)) s.payload 0
          (tileExtent s.rectWidth 0 * tileExtent s.rectHeight 0)) =
          some (1, tileExtent s.rectWidth 0 * tileExtent s.rectHeight 0 * bytesPerPixel s) := by
        rw [tileReads, if_pos hflag, firstShort_cons_of_fit (by rw [State.payload_length]; omega)]
        exact firstShort_cons_of_short (by rwa [State.payload_length])
      exact decHextile_of_shortTile h hin hout (shortTile_zero hw hh hreads)

end Sys2Proof.Machine
end

section
/-! PROOFS. The control commands (45_control.md): NOP is its completion and nothing more (R230), and CLEAR completes in
the reset state with DONE = 1 and every buffer byte zero (R231). -/

namespace Sys2Proof.Machine

open Sys2Proof.Claims

/-! ## NOP -/

/-- R230: NOP completes OK with no update. -/
theorem exec_nop (s : State) : exec .nop s = .next s.completeOk := rfl

/-- R94: with NOP pending the engine's step is the completion. -/
theorem engineStep_of_pend_nop {s : State} (hb : s.busy = true) (hpend : s.pend = encode .nop) :
    engineStep s = .next s.completeOk :=
  (engineStep_of_decode hb (by rw [hpend, decode_encode])).trans (exec_nop s)

/-- R85, R88: a completion writes again the registers that an acceptance wrote, but for PEND; OVR passes through both. -/
theorem State.completeOk_accepted (s : State) (c : Word) (r : Option PortResp) :
    ({ s.acceptCommand c with resp := r } : State).completeOk = { s.completeOk with pend := c, resp := r } := by
  have hovr : ({ s.acceptCommand c with resp := r } : State).ovr = s.ovr := s.acceptCommand_ovr c
  rw [State.completeOk, hovr]
  rfl

/-- R85, R88: an accepted NOP leaves the old state but for the completion registers, PEND and the response. -/
theorem engineStep_portStep_nop {s : State} (hb : s.busy = false) :
    engineStep (portStep s (.write32 0x004#27 (encode .nop))) =
      .next { s.completeOk with pend := encode .nop, resp := some .written } := by
  have hrun := engineStep_of_pend_nop (s := { s.acceptCommand (encode .nop) with resp := some .written })
    (s.acceptCommand_busy (encode .nop)) rfl
  rw [portStep_write32_cmd hb, hrun, State.completeOk_accepted]

/-- Settles O28: NOP is its completion; the worked example is that of the reset state. -/
theorem nopOnlyCompletes : Obligations.NopOnlyCompletes :=
  ⟨fun s => ⟨_, exec_nop s, s.completeOk_completedOk, rfl⟩, engineStep_portStep_nop (s := State.reset) rfl⟩

/-! ## CLEAR -/

/-- R231: CLEAR completes OK with the cleared state. -/
theorem exec_clear (s : State) : exec .clear s = .next s.cleared.completeOk := rfl

/-- R231: CLEAR clears OVR, which no completion touches. -/
@[simp] theorem State.cleared_ovr (s : State) : s.cleared.ovr = false := statusWord_ovr _ _ _ _

@[simp] theorem State.cleared_mem (s : State) : s.cleared.mem = ⟨.zero, []⟩ := rfl

/-- R231: with OVR cleared, DONE is the one flag that the completion of CLEAR leaves. -/
theorem State.cleared_completeOk_status (s : State) : s.cleared.completeOk.status = 0x00000002#32 := by
  rw [State.completeOk_status, State.cleared_ovr]
  rfl

/-- R231 against R52: the state that CLEAR leaves is the reset state but for DONE, the buffers, and what is no register
or region. -/
theorem State.cleared_completeOk_eq_reset (s : State) : s.cleared.completeOk =
    { State.reset with
      status := 0x00000002#32, mem := s.cleared.completeOk.mem, params := s.params, resp := s.resp,
      sched := s.sched } := by
  rw [← s.cleared_completeOk_status]
  rfl

/-- R231: with CTRL cleared, DONE = 1 does not raise irq. -/
@[simp] theorem State.cleared_completeOk_irq (s : State) : s.cleared.completeOk.irq = false := by
  have hie : s.cleared.completeOk.ie = false := BitVec.getLsbD_zero
  rw [State.irq, hie, Bool.false_and]

/-- R231: a zero fill with nothing written over it reads 0x00. -/
@[simp] theorem Memory.read_zero (a : Nat) : Memory.read ⟨.zero, []⟩ a = 0 := rfl

/-- Settles O29: CLEAR leaves the zero key and the zero block to DES.ENC, and a busy port drops its word like any
other. -/
theorem clearZeroesEverything : Obligations.ClearZeroesEverything := by
  refine ⟨fun s => ⟨_, exec_clear s, s.cleared_completeOk_eq_reset, fun a => ?zero, s.cleared_completeOk_irq,
    _, exec_desEnc false _, ?des⟩, fun s hb => ?dropped⟩
  case zero => rw [State.completeOk_mem, State.cleared_mem, Memory.read_zero]
  case des => exact desEncrypt_zero false
  case dropped => rw [portStep_write32_of_busy (r := .cmd) rfl hb, State.dropWrite_of_busy hb]

end Sys2Proof.Machine
end

section
/-! PROOFS. The errors of the commands (R240 to R249): when each check stops a command, and from that, for each command,
exactly the errors that it completes with, as the chain of its checks in the order of R249. -/

namespace Sys2Proof.Machine

open Sys2Proof.Claims

/-! ## The format -/

theorem bppOf_of_reserved {w : Word} (h : w.extractLsb' 0 2 = 3#2) : bppOf w = none := by
  unfold bppOf
  generalize w.extractLsb' 0 2 = v at h
  subst h
  rfl

/-- R160: one byte per pixel is BPPSEL = 0. -/
theorem bppSel_of_bppOf_one {w : Word} (h : bppOf w = some 1) : w.extractLsb' 0 2 = 0#2 := by
  unfold bppOf at h
  generalize w.extractLsb' 0 2 = v at h
  revert v
  decide

/-- R161: each of the four clauses keeps PFCHECK from passing. -/
theorem pfCheck_ne_ok_of_illegal {s : State} (h : IllegalFormat s) (f : PixelFormat) : s.pfCheck ≠ .ok f := by
  intro hok
  obtain ⟨hbpp, hlegal, hf⟩ := pfCheck_eq_ok.mp hok
  rw [hf] at hlegal
  rcases h with hres | ⟨htrue, hmax⟩ | ⟨htrue, hshift⟩ | ⟨hgray, hsel⟩
  · exact nomatch (bppOf_of_reserved hres).symm.trans hbpp
  · obtain ⟨⟨hr, hg, hb⟩, -⟩ := (PixelFormat.legal_of_trueColour htrue).mp hlegal
    rcases hmax with hzero | hzero | hzero
    · exact hr (congrArg BitVec.toNat hzero)
    · exact hg (congrArg BitVec.toNat hzero)
    · exact hb (congrArg BitVec.toNat hzero)
  · obtain ⟨-, hr, hg, hb⟩ := (PixelFormat.legal_of_trueColour htrue).mp hlegal
    rcases hshift with hbig | hbig | hbig
    · exact hbig.not_gt hr
    · exact hbig.not_gt hg
    · exact hbig.not_gt hb
  · have hone : f.bpp = 1 := (PixelFormat.legal_of_grayscale (f := s.formatWith f.bpp) hgray).mp hlegal
    exact hsel (bppSel_of_bppOf_one (hone ▸ hbpp))

/-- R161, R244: PFCHECK stops every illegal format. -/
theorem pfCheck_of_illegal {s : State} (h : IllegalFormat s) : s.pfCheck = .error ⟨.pixfmt, 0⟩ := by
  cases hp : s.pfCheck with
  | error e => rw [pfCheck_eq_error hp]
  | ok f => exact absurd hp (pfCheck_ne_ok_of_illegal h f)

/-- R161: the format that PFCHECK lets pass is that of the registers, when none of the four clauses rejects it. -/
theorem pfCheck_eq_ok_iff {s : State} {f : PixelFormat} :
    s.pfCheck = .ok f ↔ ¬IllegalFormat s ∧ f = s.formatWith (bytesPerPixel s) := by
  by_cases h : IllegalFormat s
  · simp [pfCheck_of_illegal h, h]
  · simp [pfCheck_of_legal h, h, eq_comm]

/-! ## A check and what follows it -/

section
variable {α β : Type} {s : State} {e : CmdError}

theorem except_bind_eq_error {x : Except CmdError α} {g : α → Except CmdError β} :
    (x >>= g) = .error e ↔ x = .error e ∨ ∃ a, x = .ok a ∧ g a = .error e := by
  cases x <;> simp [bind, Except.bind]

theorem guard_eq_error {c : Prop} [Decidable c] {e' : CmdError} {x : Except CmdError α} :
    (if c then .error e' else x) = .error e ↔ (c ∧ e = e') ∨ (¬c ∧ x = .error e) := by
  by_cases hc : c <;> simp [hc, eq_comm]

theorem pfCheck_bind_eq_error {g : PixelFormat → Except CmdError α} : (s.pfCheck >>= g) = .error e ↔
    (IllegalFormat s ∧ e = ⟨.pixfmt, 0⟩) ∨
      (¬IllegalFormat s ∧ g (s.formatWith (bytesPerPixel s)) = .error e) := by
  rw [except_bind_eq_error]
  by_cases h : IllegalFormat s
  · simp [pfCheck_of_illegal h, h, eq_comm]
  · simp [pfCheck_of_legal h, h]

theorem checkInLen_bind_eq_error {g : Unit → Except CmdError α} : (checkInLen s >>= g) = .error e ↔
    (s.params.inSize < s.inLen.toNat ∧ e = ⟨.capacity, 0⟩) ∨
      (s.inLen.toNat ≤ s.params.inSize ∧ g () = .error e) := by
  rw [except_bind_eq_error, Unique.exists_iff]
  exact or_congr checkInLen_eq_error (and_congr_left' checkInLen_eq_ok)

theorem mxOperand_bind_eq_error {b : Buf} {len : Word} {g : Nat → Except CmdError α} :
    (mxOperand s b len >>= g) = .error e ↔
      (s.params.mxSize < len.toNat ∧ e = ⟨.capacity, 0⟩) ∨
        (len.toNat ≤ s.params.mxSize ∧ g (natOf (s.bufBytes b len.toNat)) = .error e) := by
  simp [except_bind_eq_error, mxOperand_eq_error, mxOperand_eq_ok, and_assoc]

theorem mxWriteBack_eq_error_iff {v : Nat} :
    mxWriteBack s v = .error e ↔ ¬ResultFits s v ∧ e = ⟨.capacity, 0⟩ := by
  rw [mxWriteBack, guard_eq_error, ResultFits, Nat.not_le]
  exact or_iff_left fun h => nomatch h.2

end

/-! ## The commands -/

section
variable {s : State} {e : CmdError}

/-- R169, R249. -/
theorem pxConv_eq_error : pxConv s = .error e ↔
    (IllegalFormat s ∧ e = ⟨.pixfmt, 0⟩) ∨
    (¬IllegalFormat s ∧ (s.params.inSize < s.inLen.toNat ∨
      s.params.outSize < 4 * (s.inLen.toNat / bytesPerPixel s)) ∧ e = ⟨.capacity, 0⟩) ∨
    (¬IllegalFormat s ∧ s.inLen.toNat ≤ s.params.inSize ∧
      4 * (s.inLen.toNat / bytesPerPixel s) ≤ s.params.outSize ∧ s.inLen.toNat % bytesPerPixel s ≠ 0 ∧
      e = ⟨.protocol, BitVec.ofNat 32 (s.inLen.toNat / bytesPerPixel s * bytesPerPixel s)⟩) := by
  have hbpp : (s.formatWith (bytesPerPixel s)).bpp = bytesPerPixel s := rfl
  rw [pxConv, pfCheck_bind_eq_error, checkInLen_bind_eq_error, guard_eq_error, guard_eq_error, hbpp]
  grind

/-- R182, R249: the pre-checks of the rectangle decoders. -/
theorem decPreCheck_eq_error_iff : decPreCheck s = .error e ↔
    (IllegalFormat s ∧ e = ⟨.pixfmt, 0⟩) ∨ (¬IllegalFormat s ∧
      (s.params.inSize < s.inLen.toNat ∨ s.params.outSize < s.rectWidth * s.rectHeight * 4) ∧ e = ⟨.capacity, 0⟩) := by
  rw [decPreCheck, pfCheck_bind_eq_error, checkInLen_bind_eq_error, guard_eq_error]
  grind

/-- R182, R249: behind the pre-checks the decoder alone can fail. -/
theorem decodeRect_eq_error {decoder : PixelFormat → Except CmdError Canvas} :
    decodeRect s decoder = .error e ↔ decPreCheck s = .error e ∨
      (¬IllegalFormat s ∧ s.inLen.toNat ≤ s.params.inSize ∧ s.rectWidth * s.rectHeight * 4 ≤ s.params.outSize ∧
        decoder (s.formatWith (bytesPerPixel s)) = .error e) := by
  simp only [decodeRect, except_bind_eq_error, decPreCheck_eq_ok, pfCheck_eq_ok_iff]
  grind

/-- R185, R249. -/
theorem decCopyrect_eq_error : decCopyrect s = .error e ↔
    (s.params.inSize < s.inLen.toNat ∧ e = ⟨.capacity, 0⟩) ∨
      (s.inLen.toNat ≤ s.params.inSize ∧ s.inLen.toNat < 4 ∧ e = ⟨.protocol, 0⟩) := by
  rw [decCopyrect, checkInLen_bind_eq_error]
  simp [decodeCopyrect, except_bind_eq_error, need_eq_error]

/-- R143, R249. -/
theorem mxModpow_eq_error : mxModpow s = .error e ↔
    (s.params.mxSize < s.mxAlen.toNat ∨ s.params.mxSize < s.mxBlen.toNat ∨ s.params.mxSize < s.mxMlen.toNat ∨
      ¬ResultFits s (powerTable (operandA s) (operandB s) (operandM s))) ∧ e = ⟨.capacity, 0⟩ := by
  rw [mxModpow, mxOperand_bind_eq_error, mxOperand_bind_eq_error, mxOperand_bind_eq_error, mxWriteBack_eq_error_iff,
    modPow_eq_powerTable]
  simp only [operandA, operandB, operandM]
  grind

/-- R144, R249: the zero modulus comes behind the operand lengths and before the result length. -/
theorem mxMod_eq_error : mxMod s = .error e ↔
    ((s.params.mxSize < s.mxAlen.toNat ∨ s.params.mxSize < s.mxMlen.toNat ∨
      (operandM s ≠ 0 ∧ ¬ResultFits s (operandA s % operandM s))) ∧ e = ⟨.capacity, 0⟩) ∨
    (s.mxAlen.toNat ≤ s.params.mxSize ∧ s.mxMlen.toNat ≤ s.params.mxSize ∧ operandM s = 0 ∧
      e = ⟨.divzero, 0⟩) := by
  rw [mxMod, mxOperand_bind_eq_error, mxOperand_bind_eq_error, guard_eq_error, mxWriteBack_eq_error_iff]
  simp only [operandA, operandM]
  grind [modulo_eq_mod]

/-- R145, R249. -/
theorem mxMul_eq_error : mxMul s = .error e ↔
    (s.params.mxSize < s.mxAlen.toNat ∨ s.params.mxSize < s.mxBlen.toNat ∨
      ¬ResultFits s (operandA s * operandB s)) ∧ e = ⟨.capacity, 0⟩ := by
  rw [mxMul, mxOperand_bind_eq_error, mxOperand_bind_eq_error, mxWriteBack_eq_error_iff]
  simp only [operandA, operandB, bigMul]
  grind

end

end Sys2Proof.Machine
end

section
/-! PROOFS. The guarded reads of the decoders (R181, R217): each read starts where the one before it ended, so the read
that a payload cuts short starts inside the payload, and its offset is the ERRINFO of the decoder's ERR_PROTOCOL. -/

namespace Sys2Proof.Machine

open Sys2Proof.Claims

/-! ## Consecutive reads -/

/-- The reads, each starting where the one before it ended, lead from offset `a` to offset `b`. -/
def Consecutive (a : Nat) (reads : List (Nat × Nat)) (b : Nat) : Prop :=
  match reads with
  | [] => a = b
  | r :: reads => r.1 = a ∧ Consecutive (a + r.2) reads b

theorem Consecutive.append {a b c : Nat} {reads reads' : List (Nat × Nat)} (h : Consecutive a reads b)
    (h' : Consecutive b reads' c) : Consecutive a (reads ++ reads') c := by
  induction reads generalizing a with
  | nil => exact h ▸ h'
  | cons r reads ih => exact ⟨h.1, ih h.2⟩

/-- An optional field is at most one read. -/
theorem consecutive_optional (present : Bool) (a k : Nat) :
    Consecutive a (if present then [(a, k)] else []) (behind present a k) := by
  cases present with
  | false => rfl
  | true => exact ⟨rfl, rfl⟩

section
variable {bs : List Byte} {a b : Nat} {reads : List (Nat × Nat)}

/-- Reads that all fit end inside the payload. -/
theorem Consecutive.end_le (h : Consecutive a reads b) (ha : a ≤ bs.length) (hfit : firstShort bs reads = none) :
    b ≤ bs.length := by
  induction reads generalizing a with
  | nil => exact h ▸ ha
  | cons r reads ih =>
    obtain ⟨rfl, hrest⟩ := h
    have hr : r.1 + r.2 ≤ bs.length := firstShort_eq_none.mp hfit r List.mem_cons_self
    exact ih hrest hr ((firstShort_cons_of_fit hr).symm.trans hfit)

/-- The first read that does not fit starts inside the payload. -/
theorem Consecutive.short_le (h : Consecutive a reads b) (ha : a ≤ bs.length) {r : Nat × Nat}
    (hshort : firstShort bs reads = some r) : r.1 ≤ bs.length := by
  induction reads generalizing a with
  | nil => exact nomatch hshort
  | cons q reads ih =>
    obtain ⟨rfl, hrest⟩ := h
    rcases Nat.lt_or_ge bs.length (q.1 + q.2) with hq | hq
    · exact Option.some.inj ((firstShort_cons_of_short hq).symm.trans hshort) ▸ ha
    · exact ih hrest hq ((firstShort_cons_of_fit hq).symm.trans hshort)

end

/-! ## The reads of a tile -/

section
variable (f : PixelFormat) (bs : List Byte) (c : Nat)

/-- R215: the colour, `xy` and `wh` of a subrectangle. -/
theorem consecutive_tileSubReads (q : Nat) :
    Consecutive (tileSubAt f bs c q) (tileSubReads f bs c q) (tileSubAt f bs c (q + 1)) := by
  rw [← tileXyAt_add_two]
  exact (consecutive_optional _ _ _).append ⟨rfl, rfl, rfl⟩

theorem consecutive_subrects (n : Nat) :
    Consecutive (tileSubAt f bs c 0) ((List.range n).flatMap (tileSubReads f bs c)) (tileSubAt f bs c n) := by
  induction n with
  | zero => rfl
  | succ n ih =>
    rw [List.range_succ, List.flatMap_append, List.flatMap_singleton]
    exact ih.append (consecutive_tileSubReads f bs c n)

/-- R215: the count and the subrectangles. -/
theorem consecutive_anySubrects :
    Consecutive (tileCountAt f bs c)
      (if tileFlag bs c 3 then
        (tileCountAt f bs c, 1) :: (List.range (tileCount f bs c)).flatMap (tileSubReads f bs c)
      else []) (tileEnd f bs c) := by
  unfold tileEnd
  cases tileFlag bs c 3 with
  | false => rfl
  | true =>
    have hfirst : tileSubAt f bs c 0 = tileCountAt f bs c + 1 := by rw [tileSubAt, Nat.zero_mul, Nat.add_zero]
    exact ⟨rfl, hfirst ▸ consecutive_subrects f bs c _⟩

/-- R211, R219: the reads of a tile lead from its flag byte to the cursor that it leaves. -/
theorem consecutive_tileReads (st : HexState) (w h : Nat) (origin : Nat × Nat) :
    Consecutive st.cur (tileReads f bs st.cur (tileExtent w origin.1 * tileExtent h origin.2))
      (tileAfter f bs st w h origin).cur := by
  refine ⟨rfl, ?_⟩
  cases hraw : tileFlag bs st.cur 0 with
  | true =>
    rw [tileAfter_of_raw hraw]
    exact ⟨rfl, rfl⟩
  | false =>
    rw [tileAfter_of_not_raw hraw]
    exact ((consecutive_optional _ _ _).append (consecutive_optional _ _ _)).append
      (consecutive_anySubrects f bs st.cur)

end

/-! ## The errors of the decoders -/

/-- An ERR_PROTOCOL whose ERRINFO is an offset inside the payload (R243). -/
def ShortRead (bs : List Byte) (e : CmdError) : Prop := ∃ cur ≤ bs.length, e = ⟨.protocol, BitVec.ofNat 32 cur⟩

section
variable {f : PixelFormat} {bs : List Byte} {w h : Nat} {e : CmdError}

/-- R184. -/
theorem decodeRaw_eq_error :
    decodeRaw f w h bs = .error e ↔ bs.length < w * h * f.bpp ∧ e = ⟨.protocol, 0⟩ := by
  simp [decodeRaw, except_bind_eq_error, need_eq_error]

/-- R187: the count, then the background. -/
theorem decodeRre_eq_error :
    decodeRre f w h bs = .error e ↔
      bs.length < 4 + f.bpp ∧ e = ⟨.protocol, if bs.length < 4 then 0 else 4⟩ := by
  simp only [decodeRre, except_bind_eq_error, need_eq_error, need_eq_ok, readPix_eq_error]
  grind

/-- R217: a tile that fails is cut short behind the cursor. -/
theorem hexTile_shortRead {st : HexState} {origin : Nat × Nat} (hcur : st.cur ≤ bs.length)
    (he : hexTile f bs w h st origin = .error e) : ShortRead bs e := by
  have hreads := consecutive_tileReads f bs st w h origin
  rw [hexTile_eq_afterReads] at he
  cases hshort : firstShort bs (tileReads f bs st.cur (tileExtent w origin.1 * tileExtent h origin.2)) with
  | some r =>
    rw [afterReads_of_short hshort] at he
    exact ⟨r.1, hreads.short_le hcur hshort, (Except.error.inj he).symm⟩
  | none => exact nomatch (afterReads_of_fit hshort _).symm.trans he

/-- R217: a tile that goes on leaves the cursor inside the payload. -/
theorem hexTile_cur_le {st st' : HexState} {origin : Nat × Nat} (hcur : st.cur ≤ bs.length)
    (hst : hexTile f bs w h st origin = .ok st') : st'.cur ≤ bs.length := by
  rw [hexTile_eq_afterReads] at hst
  obtain ⟨hfit, rfl⟩ := afterReads_eq_ok.mp hst
  exact (consecutive_tileReads f bs st w h origin).end_le hcur hfit

theorem foldlM_hexTile_shortRead {origins : List (Nat × Nat)} {st : HexState} (hcur : st.cur ≤ bs.length)
    (he : origins.foldlM (hexTile f bs w h) st = .error e) : ShortRead bs e := by
  induction origins generalizing st with
  | nil => exact nomatch he
  | cons o origins ih =>
    rw [List.foldlM_cons] at he
    rcases except_bind_eq_error.mp he with htile | ⟨st', htile, hrest⟩
    · exact hexTile_shortRead hcur htile
    · exact ih (hexTile_cur_le hcur htile) hrest

theorem decodeRaw_shortRead (he : decodeRaw f w h bs = .error e) : ShortRead bs e :=
  ⟨0, Nat.zero_le _, (decodeRaw_eq_error.mp he).2⟩

theorem decodeRre_shortRead (he : decodeRre f w h bs = .error e) : ShortRead bs e := by
  obtain ⟨-, rfl⟩ := decodeRre_eq_error.mp he
  rcases Nat.lt_or_ge bs.length 4 with hcount | hcount
  · exact ⟨0, Nat.zero_le _, congrArg (CmdError.mk .protocol) (if_pos hcount)⟩
  · exact ⟨4, hcount, congrArg (CmdError.mk .protocol) (if_neg hcount.not_gt)⟩

/-- R219: the tile loop starts at offset 0. -/
theorem decodeHextile_shortRead {bg fg : Rgba} (he : decodeHextile f w h bg fg bs = .error e) : ShortRead bs e := by
  rcases except_bind_eq_error.mp he with hloop | ⟨st, -, hok⟩
  · exact foldlM_hexTile_shortRead (Nat.zero_le _) hloop
  · exact nomatch hok

end

end Sys2Proof.Machine
end

section
/-! PROOFS. The statements about the errors: what ERRINFO holds by ERRCODE (R248), and for each error code exactly the
commands and operands that complete with it (R243 to R246, R249). -/

namespace Sys2Proof.Machine

open Sys2Proof.Claims

/-! ## From a rule to its completion -/

/-- The updates of a command, or its error (R87): what `exec` hands to `finish`. -/
def rule (i : Instr) (s : State) : Except CmdError State :=
  match i with
  | .nop => .ok s
  | .clear => .ok s.cleared
  | .desEnc kr => .ok { s with desOut := desEncrypt kr s.desKey s.desIn }
  | .mxModpow => mxModpow s
  | .mxMod => mxMod s
  | .mxMul => mxMul s
  | .pxConv => pxConv s
  | .decRaw => decRaw s
  | .decCopyrect => decCopyrect s
  | .decRre => decRre s
  | .decHextile => decHextile s

theorem exec_eq_finish_rule (i : Instr) (s : State) : exec i s = finish s (rule i s) := by
  cases i <;> rfl

theorem ErrCode.toWord_injective : Function.Injective ErrCode.toWord := by
  intro c d h
  cases c <;> cases d <;> simp [ErrCode.toWord] at h ⊢

/-- R89, R241: ERRCODE tells which error a command completed with, and ERRINFO its detail. -/
theorem errcode_eq_toWord_iff {s t : State} {r : Except CmdError State} {c : ErrCode} (h : finish s r = .next t) :
    t.errcode = c.toWord ↔ r = .error ⟨c, t.errinfo⟩ := by
  rcases finish_eq_next h with ⟨u, rfl, rfl⟩ | ⟨⟨d, info⟩, rfl, rfl⟩
  · exact ⟨fun hc => absurd hc.symm c.toWord_range.1, nofun⟩
  · simp [ErrCode.toWord_injective.eq_iff]

section
variable {i : Instr} {s : State} {c : ErrCode}

/-- With `P` for the condition of an error and `v` for its detail: the command ends with this error exactly when `P`
holds, and ERRINFO is then `v`. -/
theorem exec_errcode {P : Prop} {v : Word} (h : ∀ info, rule i s = .error ⟨c, info⟩ ↔ P ∧ info = v) :
    ∃ t, exec i s = .next t ∧ (t.errcode = c.toWord ↔ P) ∧ (t.errcode = c.toWord → t.errinfo = v ∧ t.err = true) := by
  by_cases hP : P
  · have herror : exec i s = .next (s.completeErr ⟨c, v⟩) := by
      rw [exec_eq_finish_rule, (h v).mpr ⟨hP, rfl⟩, finish_error]
    exact ⟨_, herror, iff_of_true rfl hP, fun _ => ⟨rfl, s.completeErr_err _⟩⟩
  · obtain ⟨t, ht⟩ := finish_goes_on s (rule i s)
    have hcode : t.errcode ≠ c.toWord := fun hc => hP ((h _).mp ((errcode_eq_toWord_iff ht).mp hc)).1
    exact ⟨t, (exec_eq_finish_rule i s).trans ht, iff_of_false hcode hP, fun hc => absurd hc hcode⟩

theorem exec_errcode_iff {P : Prop} {v : Word} (h : ∀ info, rule i s = .error ⟨c, info⟩ ↔ P ∧ info = v) :
    ∃ t, exec i s = .next t ∧ (t.errcode = c.toWord ↔ P) := by
  obtain ⟨t, ht, hcode, -⟩ := exec_errcode h
  exact ⟨t, ht, hcode⟩

theorem exec_errcode_ne (h : ∀ info, rule i s ≠ .error ⟨c, info⟩) :
    ∃ t, exec i s = .next t ∧ t.errcode ≠ c.toWord := by
  obtain ⟨t, ht⟩ := finish_goes_on s (rule i s)
  exact ⟨t, (exec_eq_finish_rule i s).trans ht, fun hc => h _ ((errcode_eq_toWord_iff ht).mp hc)⟩

end

/-! ## The rectangle decoders -/

/-- R182: the three decoders run behind the same pre-checks, and fail by a short read only. -/
theorem rule_of_decoder {i : Instr} (hi : i ∈ [Instr.decRaw, .decRre, .decHextile]) (s : State) :
    ∃ decoder, rule i s = decodeRect s decoder ∧ ∀ {f e}, decoder f = .error e → ShortRead s.payload e := by
  fin_cases hi
  · exact ⟨_, rfl, decodeRaw_shortRead⟩
  · exact ⟨_, rfl, decodeRre_shortRead⟩
  · exact ⟨_, rfl, decodeHextile_shortRead⟩

/-- Every error of a decoder command but ERR_PROTOCOL is one of its pre-checks. -/
theorem rule_of_decoder_eq_error {i : Instr} (hi : i ∈ [Instr.decRaw, .decRre, .decHextile]) {s : State} {c : ErrCode}
    (hc : c ≠ .protocol) (info : Word) : rule i s = .error ⟨c, info⟩ ↔ decPreCheck s = .error ⟨c, info⟩ := by
  obtain ⟨decoder, hrule, hshort⟩ := rule_of_decoder hi s
  rw [hrule, decodeRect_eq_error]
  refine or_iff_left fun ⟨_, _, _, he⟩ => ?_
  obtain ⟨cur, -, herr⟩ := hshort he
  exact hc (congrArg CmdError.code herr)

/-! ## ERRINFO -/

/-- R248: the errors that a decoded command can end with, by their detail. -/
inductive Detail (s : State) : CmdError → Prop where
  /-- ERR_PROTOCOL names an offset inside the payload (R243). -/
  | offset {cur : Nat} (hcur : cur ≤ s.inLen.toNat) : Detail s ⟨.protocol, BitVec.ofNat 32 cur⟩
  /-- The other codes have none, and ERR_CMD is not among them. -/
  | none {c : ErrCode} (hcmd : c ≠ .cmd) (hprotocol : c ≠ .protocol) : Detail s ⟨c, 0⟩

theorem decoder_detail {i : Instr} (hi : i ∈ [Instr.decRaw, .decRre, .decHextile]) {s : State} {e : CmdError}
    (h : rule i s = .error e) : Detail s e := by
  obtain ⟨decoder, hrule, hshort⟩ := rule_of_decoder hi s
  rcases decodeRect_eq_error.mp (hrule.symm.trans h) with hpre | ⟨-, -, -, hdecode⟩
  · rcases decPreCheck_eq_error hpre with rfl | rfl <;> exact .none nofun nofun
  · obtain ⟨cur, hcur, rfl⟩ := hshort hdecode
    exact .offset (hcur.trans_eq s.payload_length)

theorem rule_detail {i : Instr} {s : State} {e : CmdError} (h : rule i s = .error e) : Detail s e := by
  cases i with
  | nop | clear | desEnc kr => exact nomatch h
  | mxModpow =>
    obtain ⟨-, rfl⟩ := mxModpow_eq_error.mp h
    exact .none nofun nofun
  | mxMod => rcases mxMod_eq_error.mp h with ⟨-, rfl⟩ | ⟨-, -, -, rfl⟩ <;> exact .none nofun nofun
  | mxMul =>
    obtain ⟨-, rfl⟩ := mxMul_eq_error.mp h
    exact .none nofun nofun
  | pxConv =>
    rcases pxConv_eq_error.mp h with ⟨-, rfl⟩ | ⟨-, -, rfl⟩ | ⟨-, -, -, -, rfl⟩
    · exact .none nofun nofun
    · exact .none nofun nofun
    · exact .offset (Nat.div_mul_le_self _ _)
  | decCopyrect =>
    rcases decCopyrect_eq_error.mp h with ⟨-, rfl⟩ | ⟨-, -, rfl⟩
    · exact .none nofun nofun
    · exact .offset (Nat.zero_le _)
  | decRaw | decRre | decHextile => exact decoder_detail (by simp) h

/-- R248 at the completion of a decoded command. -/
theorem exec_errinfo {i : Instr} {s t : State} (h : exec i s = .next t) :
    t.errcode ≠ ErrCode.cmd.toWord ∧ (t.errcode = ErrCode.protocol.toWord → t.errinfo.toNat ≤ s.inLen.toNat) ∧
      (t.errcode ≠ ErrCode.protocol.toWord → t.errinfo = 0) := by
  rcases finish_eq_next ((exec_eq_finish_rule i s).symm.trans h) with ⟨u, -, rfl⟩ | ⟨e, he, rfl⟩
  · exact ⟨ErrCode.cmd.toWord_range.1.symm, fun hc => absurd hc.symm ErrCode.protocol.toWord_range.1, fun _ => rfl⟩
  · cases rule_detail he with
    | @offset cur hcur =>
      refine ⟨ErrCode.toWord_injective.ne (a₁ := .protocol) nofun, fun _ => ?_, fun hc => absurd rfl hc⟩
      calc (BitVec.ofNat 32 cur).toNat = cur % 2 ^ 32 := BitVec.toNat_ofNat cur 32
        _ ≤ cur := Nat.mod_le _ _
        _ ≤ s.inLen.toNat := hcur
    | none hcmd hprotocol =>
      exact ⟨ErrCode.toWord_injective.ne hcmd, fun hc => absurd (ErrCode.toWord_injective hc) hprotocol, fun _ => rfl⟩

/-- Settles O10: an illegal word is its own ERRINFO, and a decoded command does not raise ERR_CMD. -/
theorem errinfoByCode : Obligations.ErrinfoByCode := by
  intro s t hb h
  by_cases hill : IllegalWord s.pend
  · obtain rfl := Host.Outcome.next.inj ((engineStep_of_illegalWord hb hill).symm.trans h)
    exact ⟨fun _ => rfl, fun hc => absurd (ErrCode.toWord_injective (a₁ := .cmd) (a₂ := .protocol) hc) nofun,
      fun hc => absurd rfl hc⟩
  · obtain ⟨i, hi⟩ := not_illegalWord_iff.mp hill
    obtain ⟨hcmd, hoffset, hzero⟩ := exec_errinfo ((engineStep_of_decode hb hi).symm.trans h)
    exact ⟨fun hc => absurd hc hcmd, hoffset, fun _ => hzero⟩

/-! ## ERR_PIXFMT -/

/-- R244: no other command runs PFCHECK, and where it stands it comes first. -/
theorem rule_eq_pixfmt (i : Instr) (s : State) (info : Word) :
    rule i s = .error ⟨.pixfmt, info⟩ ↔ (ConvertsPixels i ∧ IllegalFormat s) ∧ info = 0 := by
  cases i with
  | nop | clear | desEnc kr => simp [rule, ConvertsPixels]
  | mxModpow => simp [rule, ConvertsPixels, mxModpow_eq_error]
  | mxMod => simp [rule, ConvertsPixels, mxMod_eq_error]
  | mxMul => simp [rule, ConvertsPixels, mxMul_eq_error]
  | pxConv => simp [rule, ConvertsPixels, pxConv_eq_error]
  | decCopyrect => simp [rule, ConvertsPixels, decCopyrect_eq_error]
  | decRaw | decRre | decHextile =>
    simp [ConvertsPixels, rule_of_decoder_eq_error, decPreCheck_eq_error_iff]

/-- Settles O42. -/
theorem pixelFormatErrorsExactly : Obligations.PixelFormatErrorsExactly :=
  fun i s => exec_errcode (rule_eq_pixfmt i s)

/-! ## ERR_CAPACITY -/

theorem exec_capacity {i : Instr} {s : State} {P : Prop}
    (h : ∀ info, rule i s = .error ⟨.capacity, info⟩ ↔ P ∧ info = 0) :
    ∃ t, exec i s = .next t ∧ (t.errcode = 4 ↔ P) := exec_errcode_iff h

/-- Settles O43: each condition is that of the length checks in the rule's chain. -/
theorem capacityErrorsExactly : Obligations.CapacityErrorsExactly := by
  intro s
  refine ⟨exec_capacity fun _ => ?pxConv, fun i hi => exec_capacity fun _ => ?decoder,
    exec_capacity fun _ => ?decCopyrect, exec_capacity fun _ => ?mxModpow, exec_capacity fun _ => ?mxMod,
    exec_capacity fun _ => ?mxMul, fun i hi => ?other⟩
  case pxConv => simp [rule, pxConv_eq_error, and_assoc]
  case decoder => simp [rule_of_decoder_eq_error hi, decPreCheck_eq_error_iff, and_assoc]
  case decCopyrect => simp [rule, decCopyrect_eq_error]
  case mxModpow => simp [rule, mxModpow_eq_error]
  case mxMod => simp [rule, mxMod_eq_error]
  case mxMul => simp [rule, mxMul_eq_error]
  case other => fin_cases hi <;> exact ⟨_, rfl, rfl⟩

/-! ## ERR_DIVZERO -/

/-- R246. -/
theorem rule_eq_divzero (i : Instr) (s : State) (info : Word) :
    rule i s = .error ⟨.divzero, info⟩ ↔
      (i = .mxMod ∧ s.mxAlen.toNat ≤ s.params.mxSize ∧ s.mxMlen.toNat ≤ s.params.mxSize ∧ operandM s = 0) ∧
        info = 0 := by
  cases i with
  | nop | clear | desEnc kr => simp [rule]
  | mxModpow => simp [rule, mxModpow_eq_error]
  | mxMod => simp [rule, mxMod_eq_error, and_assoc]
  | mxMul => simp [rule, mxMul_eq_error]
  | pxConv => simp [rule, pxConv_eq_error]
  | decCopyrect => simp [rule, decCopyrect_eq_error]
  | decRaw | decRre | decHextile => simp [rule_of_decoder_eq_error, decPreCheck_eq_error_iff]

/-- R142, R5: one byte fits the smallest MX_R. -/
theorem resultFits_one {s : State} (hp : s.params.wf = true) (hmin : s.mxMinlen.toNat ≤ 2 * s.params.mxSize) :
    ResultFits s 1 := by
  have hsize := Params.wf_bounds hp
  have hlen : natlen 1 ≤ 1 := natlen_le_iff.mpr (by decide)
  exact max_le hmin (by omega)

/-- Settles O44: MX.MODPOW writes back the 1 of R141, which MX_R holds. -/
theorem zeroModulus : Obligations.ZeroModulus := by
  refine ⟨fun i s => exec_errcode_iff (rule_eq_divzero i s), fun s hp hA hB hM hzero hmin => ?_⟩
  have hone : powerTable (operandA s) (operandB s) (operandM s) = 1 := if_pos hzero
  have hwrote := modpowWritesThePower s hp hA hB hM
  rw [hone] at hwrote
  exact hwrote (resultFits_one hp hmin)

/-! ## ERR_PROTOCOL -/

/-- R243: NOP, CLEAR, DES.ENC and the MX commands read no payload. -/
theorem rule_ne_protocol {i : Instr}
    (hi : i ∈ [Instr.nop, .clear, .desEnc false, .desEnc true, .mxModpow, .mxMod, .mxMul]) (s : State) (info : Word) :
    rule i s ≠ .error ⟨.protocol, info⟩ := by
  cases i with
  | nop | clear | desEnc kr => exact nofun
  | mxModpow => simp [rule, mxModpow_eq_error]
  | mxMod => simp [rule, mxMod_eq_error]
  | mxMul => simp [rule, mxMul_eq_error]
  | pxConv | decRaw | decCopyrect | decRre | decHextile => simp at hi

/-- R182, R243: the pre-checks give no ERR_PROTOCOL. -/
theorem decodeRect_eq_protocol {s : State} {decoder : PixelFormat → Except CmdError Canvas} {info : Word} :
    decodeRect s decoder = .error ⟨.protocol, info⟩ ↔
      ¬IllegalFormat s ∧ s.inLen.toNat ≤ s.params.inSize ∧ s.rectWidth * s.rectHeight * 4 ≤ s.params.outSize ∧
        decoder (s.formatWith (bytesPerPixel s)) = .error ⟨.protocol, info⟩ := by
  simp [decodeRect_eq_error, decPreCheck_eq_error_iff]

theorem exec_protocol {i : Instr} {s : State} {P : Prop} (v : Word)
    (h : ∀ info, rule i s = .error ⟨.protocol, info⟩ ↔ P ∧ info = v) :
    ∃ t, exec i s = .next t ∧ (t.errcode = 2 ↔ P) ∧ (t.errcode = 2 → t.errinfo = v) := by
  obtain ⟨t, ht, hcode, hinfo⟩ := exec_errcode h
  exact ⟨t, ht, hcode, fun hc => (hinfo hc).1⟩

/-- R243: for PX.CONV the bytes of a partial last pixel. -/
theorem pxConv_eq_protocol {s : State} {info : Word} : pxConv s = .error ⟨.protocol, info⟩ ↔
    (¬IllegalFormat s ∧ s.inLen.toNat ≤ s.params.inSize ∧
      4 * (s.inLen.toNat / bytesPerPixel s) ≤ s.params.outSize ∧ s.inLen.toNat % bytesPerPixel s ≠ 0) ∧
    info = BitVec.ofNat 32 (s.inLen.toNat / bytesPerPixel s * bytesPerPixel s) := by
  simp [pxConv_eq_error, and_assoc]

/-- The whole pixels of a payload are a part of it, so their number of bytes fits a register. -/
theorem ofNat_wholePixels_toNat (s : State) :
    (BitVec.ofNat 32 (s.inLen.toNat / bytesPerPixel s * bytesPerPixel s)).toNat =
      s.inLen.toNat / bytesPerPixel s * bytesPerPixel s := by
  rw [BitVec.toNat_ofNat, Nat.mod_eq_of_lt ((Nat.div_mul_le_self _ _).trans_lt s.inLen.isLt)]

/-- Settles O45: each condition is that of the reads behind the other checks, and each ERRINFO where the payload
breaks off. -/
theorem protocolErrorsExactly : Obligations.ProtocolErrorsExactly := by
  intro s
  refine ⟨?pxConv, exec_protocol 0 fun _ => ?decRaw, exec_protocol 0 fun _ => ?decCopyrect,
    exec_protocol (if s.inLen.toNat < 4 then 0 else 4) fun _ => ?decRre,
    fun i hi => exec_errcode_ne (rule_ne_protocol hi s)⟩
  case pxConv =>
    obtain ⟨t, ht, hcode, hinfo⟩ := exec_protocol (i := .pxConv) (s := s) _ fun _ => pxConv_eq_protocol
    exact ⟨t, ht, hcode, fun hc => (congrArg BitVec.toNat (hinfo hc)).trans (ofNat_wholePixels_toNat s)⟩
  case decRaw => exact decodeRect_eq_protocol.trans (by simp [decodeRaw_eq_error, and_assoc])
  case decCopyrect => simp [rule, decCopyrect_eq_error, and_assoc]
  case decRre => exact decodeRect_eq_protocol.trans (by simp [decodeRre_eq_error, and_assoc])

end Sys2Proof.Machine
end

section
/-! PROOFS. The ways to clear irq (R251): each leaves DONE = 0 or CTRL.IE = 0. -/

namespace Sys2Proof.Machine

theorem State.irq_of_done_eq_false {s : State} (h : s.done = false) : s.irq = false := by
  rw [State.irq, h, Bool.and_false]

theorem State.irq_of_ie_eq_false {s : State} (h : s.ie = false) : s.irq = false := by
  rw [State.irq, h, Bool.false_and]

/-- R27: IE is bit 0 of what is written to CTRL. -/
@[simp] theorem WordReg.write_ctrl_ie (s : State) (v : Word) : (WordReg.ctrl.write s v).ie = v.getLsbD 0 := by
  have hbit : (WordReg.mask .ctrl).getLsbD 0 = true := rfl
  exact BitVec.getLsbD_and.trans (by rw [hbit, Bool.and_true])

/-- R52, R231: CTRL is 0 after CLEAR and after reset. -/
@[simp] theorem State.cleared_completeOk_ie (s : State) : s.cleared.completeOk.ie = false := BitVec.getLsbD_zero

@[simp] theorem State.afterReset_ie (s : State) (fill : Fill) (cells : List Host.Cell) :
    (s.afterReset fill cells).ie = false := BitVec.getLsbD_zero

/-- Settles O22: the writes to STATUS and CMD clear DONE, the others CTRL.IE. -/
theorem irqIsCleared : Obligations.IrqIsCleared := by
  refine ⟨fun s v hb hv => ?status, fun s v hb hv => ?ctrl, fun s c hb => ?command, fun s => ?clear,
    fun s fill cells => State.irq_of_ie_eq_false (s.afterReset_ie fill cells)⟩
  case status =>
    have hdone : (WordReg.status.write s v).done = false := by
      rw [WordReg.write_status_done, hv, Bool.not_true, Bool.and_false]
    rw [portStep_write32 (r := .status) rfl hb]
    exact State.irq_of_done_eq_false hdone
  case ctrl =>
    rw [portStep_write32 (r := .ctrl) rfl hb]
    exact State.irq_of_ie_eq_false ((WordReg.write_ctrl_ie s v).trans hv)
  case command =>
    rw [portStep_write32_cmd hb]
    exact State.irq_of_done_eq_false (s.acceptCommand_done c)
  case clear => exact ⟨_, exec_clear s, s.cleared_completeOk_irq, s.cleared_completeOk_ie⟩

end Sys2Proof.Machine
end

section
/-! PROOFS. A pending command ends within the events that wait before the engine (R87, R280, log 5), and what the reset
event leaves in registers and buffers (R52, R270 to R273). -/

namespace Sys2Proof.Machine

/-! ## A pending command ends -/

/-- R87: the engine's step of a pending word ends it. -/
theorem engineStep_ends {s : State} (hb : s.busy = true) : ∃ t, engineStep s = .next t ∧ t.busy = false := by
  obtain ⟨t, ht⟩ := engineStep_goes_on s
  refine ⟨t, ht, ?_⟩
  rcases engineStep_cases_of_busy hb ht with ⟨_, rfl⟩ | hend
  · exact State.completeOk_busy _
  · exact hend.busy_eq

/-- R52, R271: BUSY is 0 after a reset. -/
@[simp] theorem State.afterReset_busy (s : State) (fill : Fill) (cells : List Host.Cell) :
    (s.afterReset fill cells).busy = false := BitVec.getLsbD_zero

/-- R71, R86: while BUSY = 1 the engine and a reset end the command, and a port transaction leaves it pending. -/
theorem eventStep_of_busy (e : Event) {s : State} (hb : s.busy = true) :
    ∃ t, eventStep e s = .next t ∧ (t.busy = false ∨ t.busy = true ∧ t.sched = s.sched) := by
  cases e with
  | engine =>
    obtain ⟨t, ht, hidle⟩ := engineStep_ends hb
    exact ⟨t, ht, .inl hidle⟩
  | port op =>
    obtain ⟨hbusy, x, r, hop⟩ := portStep_of_busy hb op
    exact ⟨_, rfl, .inr ⟨hbusy, by rw [hop]; rfl⟩⟩
  | reset fill cells => exact ⟨_, rfl, .inl (s.afterReset_busy fill cells)⟩

theorem run_succ_of_step {s t : State} (h : step s = .next t) (k : Nat) :
    Sys2Proof.core.run (k + 1) s = Sys2Proof.core.run k t := by
  have hcore : Sys2Proof.core.step s = .next t := h
  simp only [Host.Core.run, hcore]

theorem run_one_of_step {s t : State} (h : step s = .next t) : Sys2Proof.core.run 1 s = .next t := run_succ_of_step h 0

/-- Settles O11, by induction on the schedule: its events leave the command pending only while they are the host's
transactions, and the engine moves when none is left. -/
theorem pendingCommandEndsWithinTheSchedule : Obligations.PendingCommandEndsWithinTheSchedule := by
  intro s hb
  induction hs : s.sched generalizing s with
  | nil =>
    obtain ⟨t, ht, hidle⟩ := engineStep_ends hb
    exact ⟨1, t, Nat.le_refl 1, run_one_of_step ((step_of_sched_nil hs).trans ht), hidle⟩
  | cons e rest ih =>
    obtain ⟨t, ht, hend⟩ := eventStep_of_busy e (s := { s with sched := rest }) hb
    have hstep : step s = .next t := (step_of_sched_cons hs).trans ht
    rcases hend with hidle | ⟨hbusy, hrest⟩
    · exact ⟨1, t, Nat.le_add_left 1 _, run_one_of_step hstep, hidle⟩
    · obtain ⟨k, u, hk, hrun, hidle⟩ := ih t hbusy hrest
      exact ⟨k + 1, u, Nat.succ_le_succ hk, (run_succ_of_step hstep k).trans hrun, hidle⟩

/-! ## The contents that a reset brings -/

/-- A byte for which every entry of its offset lists the value `v` holds `v` after the writes, if one entry lists it or
it held `v` before. -/
theorem Memory.read_foldl_write {cs : List Host.Cell} {a : Nat} {v : Byte} (hcs : ∀ c ∈ cs, c.1 = a → c.2 = v)
    {m : Memory} (h : m.read a = v ∨ ∃ c ∈ cs, c.1 = a) : (cs.foldl (fun m c => m.write c.1 c.2) m).read a = v := by
  induction cs generalizing m with
  | nil => simpa using h
  | cons d cs ih =>
    obtain ⟨hd, htail⟩ := List.forall_mem_cons.mp hcs
    refine ih htail (m := m.write d.1 d.2) ?_
    by_cases hda : d.1 = a
    · exact .inl (by rw [hda, Memory.read_write_self, hd hda])
    · rw [Memory.read_write_of_ne (Ne.symm hda)]
      simpa [hda] using h

/-- R272 (log 4): a byte that the event does not list is as its fill says. -/
theorem resetMemory_read_of_unlisted {cells : List Host.Cell} {a : Nat} (h : ∀ c ∈ cells, c.1 ≠ a) (p : Params)
    (fill : Fill) : (resetMemory p fill cells).read a = (Memory.mk fill []).read a :=
  Memory.read_foldl_write (fun c hc hca => absurd hca (h c (List.mem_of_mem_filter hc))) (.inl rfl)

/-- R272 (log 4): a buffer byte that the event lists once is as listed. -/
theorem resetMemory_read_of_listed {p : Params} {cells : List Host.Cell} {c : Host.Cell} (hc : c ∈ cells)
    (honce : ∀ d ∈ cells, d.1 = c.1 → d = c) (hbuf : (bufAt p c.1).isSome = true) (fill : Fill) :
    (resetMemory p fill cells).read c.1 = c.2 :=
  Memory.read_foldl_write (fun d hd hdc => congrArg Prod.snd (honce d (List.mem_of_mem_filter hd) hdc))
    (.inr ⟨c, List.mem_filter.mpr ⟨hc, hbuf⟩, rfl⟩)

/-! ## The registers after a reset -/

/-- R52, R271: every word register but the constants reads 0 after a reset. -/
theorem WordReg.read_afterReset {r : WordReg} (hid : r ≠ .id) (hin : r ≠ .capIn) (hout : r ≠ .capOut)
    (hmx : r ≠ .capMx) (s : State) (fill : Fill) (cells : List Host.Cell) : r.read (s.afterReset fill cells) = 0 := by
  cases r with
  | id | capIn | capOut | capMx => contradiction
  | _ => rfl

/-- Settles O15: by the rules for the registers and for the buffers after a reset; with BUSY = 0 nothing is left to the
engine (R273). -/
theorem resetEventGivesTheResetState : Obligations.ResetEventGivesTheResetState := by
  intro s fill cells rest hs
  refine ⟨State.afterReset { s with sched := rest } fill cells, step_of_sched_cons hs, rfl, rfl,
    fun r hid hin hout hmx => ?regs, rfl, rfl, rfl, rfl, rfl, rfl, rfl, rfl, ?irq, ?engine,
    fun a ha => ?unlisted, fun c hc honce hbuf => ?listed⟩
  case regs => exact WordReg.read_afterReset hid hin hout hmx _ fill cells
  case irq => exact State.irq_of_ie_eq_false (State.afterReset_ie _ fill cells)
  case engine => exact engineStep_of_idle (State.afterReset_busy _ fill cells)
  case unlisted => exact resetMemory_read_of_unlisted ha s.params fill
  case listed => exact resetMemory_read_of_listed hc honce hbuf fill

end Sys2Proof.Machine
end
